-- ==== Sys2Proof/Word.lean ====
section
/-! DEFINITION. The word types of the HTB core: bytes, nibbles and 32-bit words (00_scope.md R10). -/

namespace Sys2Proof

/-- One byte of a memory, of a key text or of a payload. -/
abbrev Byte := BitVec 8

/-- One hex digit's value (00_scope.md R11, R15). -/
abbrev Nibble := BitVec 4

/-- A host-visible register, a command word, or a weight: 32 bits (00_scope.md R10, R8 WEIGHT_BITS). -/
abbrev Word := BitVec 32

/-- A bit string, element 0 leftmost (00_scope.md R11): a code, a path, the packer's bit buffer. -/
abbrev Bits := List Bool

end Sys2Proof
end

