-- ==== Sys2Proof/Syntax.lean ====
section
/-! DEFINITION. The command set HTB-CMD version 1 (00_scope.md R3): one constructor per row of
spec/opcode_table.json. -/

namespace Sys2Proof

/-- A decoded command word (30_encoding.md R80 to R82). No command has an operand field (R83); the row
ILLEGAL keeps the two fields of the word it stands for. -/
inductive Instr where
  /-- Word 0x00000001 (40_install.md R100). -/
  | install
  /-- Word 0x00000002 (43_pack.md R140). -/
  | pack
  /-- Word 0x00000003 (44_unpack.md R160). -/
  | unpack
  /-- Word 0x0000000F (45_control.md R186). -/
  | reset
  /-- Every other word, by its fields OP = bits [3:0] and ZERO = bits [31:4] (45_control.md R187). -/
  | illegal (op : BitVec 4) (zero : BitVec 28)
  deriving DecidableEq, Repr

end Sys2Proof
end

