-- ==== Sys2Proof/WellFormed.lean ====
section
/-! DEFINITION. Which terms of `Instr` stand for a command word. -/

namespace Sys2Proof

/-- The opcodes of the opcode map (30_encoding.md R81). -/
def legalOps : List (BitVec 4) := [0x1#4, 0x2#4, 0x3#4, 0xF#4]

/-- `illegal` stands for the words the opcode map does not name: OP outside the map, or ZERO not 0
(30_encoding.md R82). The other constructors are always well formed. -/
def Instr.wellFormed : Instr → Bool
  | .install => true
  | .pack => true
  | .unpack => true
  | .reset => true
  | .illegal op zero => zero != 0#28 || !(legalOps.contains op)

end Sys2Proof
end

