-- ==== Sys2Proof/Decode.lean ====
section
/-! DEFINITION. Decoding and encoding of command words (30_encoding.md R80 to R82). -/

namespace Sys2Proof

/-- OP, bits [3:0] of a command word (30_encoding.md R80). -/
def opField (w : Word) : BitVec 4 := w.extractLsb' 0 4

/-- ZERO, bits [31:4] of a command word (30_encoding.md R80). -/
def zeroField (w : Word) : BitVec 28 := w.extractLsb' 4 28

/-- Decode(v) of 45_control.md R180: the opcode map of 30_encoding.md R81 when ZERO = 0, the illegal
command for every other word (R82). Total: there is no undefined word. -/
def decodeWord (w : Word) : Instr :=
  if zeroField w = 0#28 then
    if opField w = 0x1#4 then .install
    else if opField w = 0x2#4 then .pack
    else if opField w = 0x3#4 then .unpack
    else if opField w = 0xF#4 then .reset
    else .illegal (opField w) (zeroField w)
  else .illegal (opField w) (zeroField w)

/-- Why bytes hold no command word. -/
inductive DecodeError where
  /-- Fewer than the four bytes of a command word; safe: a shorter write to CMD is a bus error
  (20_memory.md R56) and never reaches the decoder. -/
  | shortWord
  deriving DecidableEq, Repr

/-- The little-endian word of four bytes (20_memory.md R57). -/
def wordOfBytes (b0 b1 b2 b3 : Byte) : Word := b3 ++ (b2 ++ (b1 ++ b0))

/-- Decoding from bytes as the host port stores them: one word, lowest address first (20_memory.md R57,
30_encoding.md R80), and the bytes that follow it. -/
def decodeBytes : List Byte → Except DecodeError (Instr × List Byte)
  | b0 :: b1 :: b2 :: b3 :: rest => .ok (decodeWord (wordOfBytes b0 b1 b2 b3), rest)
  | _ => .error .shortWord

/-- The command word of an instruction (30_encoding.md R80, R81). -/
def encode : Instr → Word
  | .install => 0x00000001#32
  | .pack => 0x00000002#32
  | .unpack => 0x00000003#32
  | .reset => 0x0000000F#32
  | .illegal op zero => zero ++ op

/-- The four bytes of a word, lowest address first (20_memory.md R57). -/
def bytesOfWord (w : Word) : List Byte :=
  [w.extractLsb' 0 8, w.extractLsb' 8 8, w.extractLsb' 16 8, w.extractLsb' 24 8]

/-- The bytes of an instruction's command word. -/
def encodeBytes (i : Instr) : List Byte := bytesOfWord (encode i)

/-- The instruction the decoder reads from a table row's word. A command word has 32 bits; a row of fewer
bits leaves the bits above them 0, and a row of more bits is no command word. -/
def decodeTableWord (nbits w : Nat) : Option Instr :=
  if nbits ≤ 32 then
    match decodeBytes (bytesOfWord (BitVec.ofNat 32 (w % 2 ^ nbits))) with
    | .ok (i, []) => some i
    | _ => none
  else none

/-- One row of the opcode table: a word is the row's when `word &&& mask = pattern`. -/
structure OpcodeRow where
  pattern : Word
  mask : Word
  deriving DecidableEq, Repr

/-- The row of an instruction (spec/opcode_table.json): the four commands have a full mask, ILLEGAL an
empty one and stands last. -/
def opcodeRow : Instr → OpcodeRow
  | .install => ⟨0x00000001#32, 0xFFFFFFFF#32⟩
  | .pack => ⟨0x00000002#32, 0xFFFFFFFF#32⟩
  | .unpack => ⟨0x00000003#32, 0xFFFFFFFF#32⟩
  | .reset => ⟨0x0000000F#32, 0xFFFFFFFF#32⟩
  | .illegal _ _ => ⟨0x00000000#32, 0x00000000#32⟩

/-- The opcode table in its order. -/
def opcodeTable : List OpcodeRow :=
  [⟨0x00000001#32, 0xFFFFFFFF#32⟩, ⟨0x00000002#32, 0xFFFFFFFF#32⟩, ⟨0x00000003#32, 0xFFFFFFFF#32⟩,
   ⟨0x0000000F#32, 0xFFFFFFFF#32⟩, ⟨0x00000000#32, 0x00000000#32⟩]

/-- Whether a word matches a row. -/
def OpcodeRow.covers (r : OpcodeRow) (w : Word) : Bool := w &&& r.mask == r.pattern

/-- The first row of the table that a word matches. -/
def firstRow (w : Word) : Option OpcodeRow := opcodeTable.find? (fun r => r.covers w)

end Sys2Proof
end

