-- ==== Sys2Proof/Config.lean ====
section
/-! DEFINITION. What an implementation of the HTB core fixes (the parameters of 00_scope.md R7) and the
free values the spec leaves open (its draws: 93_implementation_defined.md, treatment "any value"). -/

namespace Sys2Proof

/-- The parameters of 00_scope.md R7. An instance of the core holds them as constants: they are read
through PARAM0 to PARAM2 and the built-in key text, and nothing writes them (log entry 1). -/
structure Params where
  /-- CUSTOM_MAX, capacity for custom entries, 0..255 (D9). -/
  customMax : Nat
  /-- FREQ_EXTRA, the bytes added to the frequent set (D11). -/
  freqExtra : List Byte
  /-- KEY_MAX, bytes of KEYMEM, 0..4096 (D10). -/
  keyMax : Nat
  /-- SRC_MAX, bytes of SRCMEM, 0..8192 (D10). -/
  srcMax : Nat
  /-- DST_MAX, bytes of DSTMEM, 2..16384 (D10). -/
  dstMax : Nat
  /-- DEFAULT_KEY, the text of the built-in key (D22). -/
  defaultKey : List Byte
  deriving DecidableEq, Repr

/-- A byte of a memory nobody has written since `epoch`: a draw (20_memory.md R55, R62; I8, I9). FREE
VALUE: the constant has no body, so no proof can see what it is. -/
opaque Config.freeByte (epoch addr : Nat) : Byte

/-- What a host read of a result returns while BUSY = 1: a draw (10_state.md R48, 20_memory.md R53; I7).
FREE VALUE. -/
opaque Config.busyRead (n : Nat) : Word

/-- How many internal steps an accepted command takes before its completion step: unspecified and finite
(45_control.md R181, R191; I17). FREE VALUE. -/
opaque Config.latency (n : Nat) : Nat

end Sys2Proof
end

