-- ==== Sys2Proof/Machine/Constants.lean ====
section
/-! DEFINITION. The constants of 00_scope.md R6, the reference configuration of R7, the derived sizes of
R8 and the address map of 20_memory.md R51. -/

namespace Sys2Proof.Machine

/-- MAX_EXPR_LEN (R6). -/
def maxExprLen : Nat := 15
/-- MAX_CODE_LEN (R6). -/
def maxCodeLen : Nat := 128
/-- BYTE_ENTRIES (R6). -/
def byteEntries : Nat := 256
/-- W_FREQ (R6). -/
def wFreq : Word := 10000#32
/-- W_LOWER (R6). -/
def wLower : Word := 1000#32
/-- W_PRINT (R6). -/
def wPrint : Word := 200#32
/-- W_OTHER (R6). -/
def wOther : Word := 1#32
/-- PAD_MAX (R6). -/
def padMax : Nat := 7

/-- The line counts of LINE_INFO saturate here (10_state.md R37, 40_install.md R103). -/
def lineCountMax : Nat := 0xFFFF

/-- The value of ID (10_state.md R24). -/
def idValue : Word := 0x48554637#32

/-- The reset value of RNG_STATE.S (10_state.md R41). -/
def rngReset : BitVec 16 := 0x0001#16

/-- The reference text of DEFAULT_KEY (30_encoding.md R86): ff74727565 LF ff66616c7365 LF ff2c0a. -/
def referenceKey : List Byte :=
  [0x66#8, 0x66#8, 0x37#8, 0x34#8, 0x37#8, 0x32#8, 0x37#8, 0x35#8, 0x36#8, 0x35#8, 0x0A#8] ++
  [0x66#8, 0x66#8, 0x36#8, 0x36#8, 0x36#8, 0x31#8, 0x36#8, 0x63#8, 0x37#8, 0x33#8, 0x36#8, 0x35#8,
    0x0A#8] ++
  [0x66#8, 0x66#8, 0x32#8, 0x63#8, 0x30#8, 0x61#8]

/-- The reference configuration (00_scope.md R7). -/
def referenceParams : Params where
  customMax := 20
  freqExtra := []
  keyMax := 4096
  srcMax := 8192
  dstMax := 16384
  defaultKey := referenceKey

/-- The ranges of 00_scope.md R7. -/
def paramsInRange (p : Params) : Bool :=
  decide (p.customMax ≤ 255) && decide (p.keyMax ≤ 4096) && decide (p.srcMax ≤ 8192) &&
    decide (2 ≤ p.dstMax) && decide (p.dstMax ≤ 16384)

/-- DICT_CAP (00_scope.md R8). -/
def dictCap (p : Params) : Nat := p.customMax + byteEntries

/-- NODE_CAP (00_scope.md R8). -/
def nodeCap (p : Params) : Nat := 2 * dictCap p - 1

/-- IDX_BITS, the width of a node index: every index of POOL and ROOT is below 2 ^ IDX_BITS (00_scope.md R8,
10_state.md R44; `nodeCap_lt` and log entry 20). -/
def idxBits : Nat := 10

/-- First address of KEYMEM (20_memory.md R51). -/
def keyBase : Nat := 0x01000
/-- First address of SRCMEM (20_memory.md R51). -/
def srcBase : Nat := 0x02000
/-- First address of DSTMEM (20_memory.md R51). -/
def dstBase : Nat := 0x04000
/-- First address of CTMEM (20_memory.md R51). -/
def ctBase : Nat := 0x08000
/-- Bytes of one code-table entry in CTMEM (30_encoding.md R89). -/
def ctEntryBytes : Nat := 64

end Sys2Proof.Machine
end

