-- ==== Sys2Proof/Machine/State.lean ====
section
/-! DEFINITION. The state of the HTB core as plain data (10_state.md), its reset value (70_reset_and_hazards.md
R231) and the reasons a step can stop. -/

namespace Sys2Proof.Machine

/-- STATUS.KEY_STATE (10_state.md R29, R46); the encoding 3 never occurs. -/
inductive KeyState where
  | none
  | valid
  | failed
  deriving DecidableEq, Repr

/-- ERR_CODE.CODE (60_exceptions.md R200). The reserved codes 13 to 15 are never written, so they have no
constructor. -/
inductive ErrCode where
  | ok
  | invalidExpressionLine
  | dictionaryFull
  | treeBuildFailure
  | codeTooLong
  | traversalFailure
  | encodingFailure
  | allocationFailure
  | formatError
  | checksumError
  | notReady
  | capacityError
  | illegalCommand
  deriving DecidableEq, Repr

/-- An entry of DICT (10_state.md R43). Its `len` field is the length of `expr`; the bytes past it are 0
and are not stored (log entry 6). -/
structure DictEntry where
  weight : Word
  expr : List Byte
  custom : Bool
  active : Bool
  deriving DecidableEq, Repr

/-- A node of POOL (10_state.md R44), one constructor per kind with the fields that kind has. Indices are
numbers; that they fit their 10 and 9 bits is part of the invariant (log entry 20). -/
inductive Node where
  | empty
  | leaf (weight : Word) (dix : Nat)
  | internal (weight : Word) (left right : Nat)
  deriving DecidableEq, Repr

/-- A valid entry of CT (10_state.md R45). Its `len` and `clen` fields are the lengths of `expr` and
`code`; the filling bytes and bits past them are 0 and are not stored (log entry 6). -/
structure CodeEntry where
  expr : List Byte
  code : Bits
  deriving DecidableEq, Repr

/-- Everything an install writes (45_control.md R188, first row): the key fields of STATUS, DICT_INFO,
LINE_INFO, CODE_INFO, and the hidden tables DICT, POOL with its working set, and CT. -/
structure KeyTables where
  /-- STATUS.KEY_STATE -/
  state : KeyState
  /-- STATUS.DEFAULT_KEY -/
  defaultKey : Bool
  /-- STATUS.LINE_INVALID -/
  lineInvalid : Bool
  /-- STATUS.DICT_FULL -/
  dictFull : Bool
  /-- DICT_INFO.CUSTOM_COUNT -/
  customCount : BitVec 8
  /-- DICT_INFO.LEAF_COUNT -/
  leafCount : BitVec 9
  /-- LINE_INFO.INVALID_LINES -/
  invalidLines : BitVec 16
  /-- LINE_INFO.FULL_LINES -/
  fullLines : BitVec 16
  /-- CODE_INFO.MIN_LEN -/
  minLen : BitVec 8
  /-- CODE_INFO.MAX_LEN -/
  maxLen : BitVec 8
  /-- CODE_INFO.CT_COUNT -/
  infoCount : BitVec 9
  /-- DICT[0..DICT_N); DICT_N is the length (R43). -/
  dict : List DictEntry
  /-- POOL[0..POOL_NEXT); POOL_NEXT is the length, every later index is EMPTY (R44). -/
  pool : List Node
  /-- INSET, one bit per pool index, 0 past the end (R44). -/
  inset : Bits
  /-- ROOT (R44). -/
  root : Nat
  /-- CT[0..CT_COUNT); CT_COUNT is the length, and exactly these entries are valid (R45). -/
  ct : List CodeEntry
  deriving DecidableEq, Repr

/-- The result registers of PACK and UNPACK (10_state.md R33 to R35 and STATUS.TRAIL_WARN). -/
structure ResultRegs where
  /-- DST_LEN.LEN -/
  dstLen : BitVec 16
  /-- PAD.P -/
  pad : BitVec 3
  /-- TRAIL.BITS -/
  trail : BitVec 8
  /-- STATUS.TRAIL_WARN -/
  trailWarn : Bool
  deriving DecidableEq, Repr

/-- Where the command engine stands (10_state.md R21, R47). STATUS.BUSY is 1 exactly when it is running. -/
inductive Engine where
  | idle
  /-- An accepted command word, and how many internal steps come before its completion step. -/
  | running (word : Word) (left : Nat)
  deriving DecidableEq, Repr

/-- The memory of the data windows: (host address, byte) pairs, addresses strictly rising. An unlisted
byte holds a draw (log entry 5). -/
abbrev Memory := List Host.Cell

/-- One thing the outside world does to the core. -/
inductive HostOp where
  /-- MemRead(addr, size) (00_scope.md R12). -/
  | read (addr : BitVec 20) (size : Nat)
  /-- MemWrite(addr, size, data) (00_scope.md R12). -/
  | write (addr : BitVec 20) (size : Nat) (data : Word)
  /-- A pulse of `rst_n` (70_reset_and_hazards.md R230). -/
  | hardReset
  /-- The pseudo-statement WAIT: repeat a read of STATUS until BUSY reads 0 (30_encoding.md R92). -/
  | wait
  /-- The pseudo-statement READDST: read DST_LEN, then that many bytes of DSTMEM (30_encoding.md R92). -/
  | readDst
  deriving DecidableEq, Repr

/-- What the host port last answered. -/
inductive PortResponse where
  /-- No access has been answered since the last hardware reset. -/
  | noneYet
  /-- A read's data, zero-extended to 32 bits. -/
  | readData (data : Word)
  /-- The normal response to a write, whether it took effect, was ignored or was dropped. -/
  | writeDone
  /-- The error response of 20_memory.md R58. -/
  | busError
  deriving DecidableEq, Repr

/-- The state of the machine. The first group is the spec's; the last five fields are the model's own
(log entries 2 and 4). -/
structure State where
  /-- The parameters of 00_scope.md R7: constants of the instance, never written (log entry 1). -/
  cfg : Params
  /-- CMD_LAST (10_state.md R28). -/
  cmdLast : BitVec 4
  /-- STATUS.DONE (10_state.md R29). -/
  done : Bool
  /-- STATUS.ERR (10_state.md R29). -/
  err : Bool
  /-- ERR_CODE.CODE (10_state.md R30). -/
  errCode : ErrCode
  /-- KEY_LEN.LEN (10_state.md R31). -/
  keyLen : BitVec 16
  /-- SRC_LEN.LEN (10_state.md R32). -/
  srcLen : BitVec 16
  /-- DST_LEN, PAD, TRAIL, STATUS.TRAIL_WARN (10_state.md R33 to R35). -/
  out : ResultRegs
  /-- The key state, its information registers and the hidden tables (10_state.md R36 to R38, R43 to R46). -/
  key : KeyTables
  /-- IRQ_EN: bit 0 DONE_IE, bit 1 ERR_IE, bit 2 DROP_IE (10_state.md R39). -/
  irqEn : BitVec 3
  /-- IRQ_STATUS: bit 0 DONE_EV, bit 1 ERR_EV, bit 2 DROP_EV (10_state.md R40). -/
  irqStatus : BitVec 3
  /-- RNG_STATE.S (10_state.md R41). -/
  rng : BitVec 16
  /-- KEYMEM, SRCMEM and DSTMEM (20_memory.md R52, R54, R55). -/
  mem : Memory
  /-- The command engine, and with it STATUS.BUSY (10_state.md R21, R29, R47). -/
  engine : Engine
  /-- MODEL: which free values the unwritten bytes of KEYMEM and SRCMEM are. -/
  keySrcEpoch : Nat
  /-- MODEL: which free values the unwritten bytes of DSTMEM are. -/
  dstEpoch : Nat
  /-- MODEL: the counter free values are taken from. -/
  draws : Nat
  /-- MODEL: what the outside world will do next, first operation first. -/
  queue : List HostOp
  /-- MODEL: the last response of the host port. -/
  port : PortResponse
  deriving DecidableEq, Repr

/-- The key tables after a reset (70_reset_and_hazards.md R231): no key, every count 0, every table empty.
The draws R231 gives the fields of DICT, POOL and CT are never read and are not held (log entry 7). -/
def KeyTables.reset : KeyTables where
  state := .none
  defaultKey := false
  lineInvalid := false
  dictFull := false
  customCount := 0#8
  leafCount := 0#9
  invalidLines := 0#16
  fullLines := 0#16
  minLen := 0#8
  maxLen := 0#8
  infoCount := 0#9
  dict := []
  pool := []
  inset := []
  root := 0
  ct := []

/-- The result registers when there is no result: after a reset and after a failed PACK or UNPACK
(70_reset_and_hazards.md R231, 43_pack.md R152, 44_unpack.md R170). -/
def ResultRegs.absent : ResultRegs where
  dstLen := 0#16
  pad := 0#3
  trail := 0#8
  trailWarn := false

/-- The machine right after a hardware reset, in the reference configuration (70_reset_and_hazards.md
R230, R231): idle, no command since reset, no key, every data memory byte a draw. -/
def State.reset : State where
  cfg := referenceParams
  cmdLast := 0#4
  done := false
  err := false
  errCode := .ok
  keyLen := 0#16
  srcLen := 0#16
  out := ResultRegs.absent
  key := KeyTables.reset
  irqEn := 0#3
  irqStatus := 0#3
  rng := rngReset
  mem := []
  engine := .idle
  keySrcEpoch := 0
  dstEpoch := 0
  draws := 1
  queue := []
  port := .noneYet

/-- Why a step stops with a fault: never. Every error code, every bus error and every draw of the spec is
a defined outcome with a next state, and the core has no stuck state (60_exceptions.md R220), so no
constructor exists. -/
inductive Fault where
  deriving DecidableEq, Repr

/-- Why an instruction has no meaning. -/
inductive Refusal where
  /-- The instruction of that mnemonic has no meaning in this model yet. Raised by an arm of `exec` only;
  no arm raises it now; safe, since the model then stops where the hardware goes on. -/
  | notModelled (mnemonic : String)
  deriving DecidableEq, Repr

end Sys2Proof.Machine
end

