-- ==== Sys2Proof/Machine/Flags.lean ====
section
/-! DEFINITION. Every status field, register read value and event computation of 10_state.md sections 2 and
4 and of 60_exceptions.md R200, R214, R215. -/

namespace Sys2Proof.Machine

/-- The number of an error code (60_exceptions.md R200). -/
def codeBits : ErrCode → BitVec 4
  | .ok => 0#4
  | .invalidExpressionLine => 1#4
  | .dictionaryFull => 2#4
  | .treeBuildFailure => 3#4
  | .codeTooLong => 4#4
  | .traversalFailure => 5#4
  | .encodingFailure => 6#4
  | .allocationFailure => 7#4
  | .formatError => 8#4
  | .checksumError => 9#4
  | .notReady => 10#4
  | .capacityError => 11#4
  | .illegalCommand => 12#4

/-- The encoding of KEY_STATE (10_state.md R29). -/
def keyStateBits : KeyState → BitVec 2
  | .none => 0#2
  | .valid => 1#2
  | .failed => 2#2

/-- STATUS.BUSY: 1 from the acceptance of a command to its completion (10_state.md R21, R29). -/
def State.busy (s : State) : Bool :=
  match s.engine with
  | .idle => false
  | .running _ _ => true

/-- DICT_N (10_state.md R43). -/
def State.dictN (s : State) : Nat := s.key.dict.length

/-- POOL_NEXT (10_state.md R44). -/
def State.poolNext (s : State) : Nat := s.key.pool.length

/-- CT_COUNT (10_state.md R45). -/
def State.ctCount (s : State) : Nat := s.key.ct.length

/-- A one-bit field at bit `i` of a register. -/
def flagAt (b : Bool) (i : Nat) : Word := (BitVec.ofBool b).setWidth 32 <<< i

/-- A wider field whose lowest bit is bit `i` of a register. -/
def fieldAt {n : Nat} (v : BitVec n) (i : Nat) : Word := v.setWidth 32 <<< i

/-- PARAM0 (10_state.md R25). -/
def param0Word (s : State) : Word :=
  fieldAt (BitVec.ofNat 8 s.cfg.customMax) 0 ||| fieldAt (BitVec.ofNat 8 maxExprLen) 8 |||
    fieldAt (BitVec.ofNat 8 maxCodeLen) 16

/-- PARAM1 (10_state.md R26). -/
def param1Word (s : State) : Word := fieldAt (BitVec.ofNat 16 s.cfg.keyMax) 0

/-- PARAM2 (10_state.md R27). -/
def param2Word (s : State) : Word :=
  fieldAt (BitVec.ofNat 16 s.cfg.srcMax) 0 ||| fieldAt (BitVec.ofNat 16 s.cfg.dstMax) 16

/-- STATUS (10_state.md R29); the reserved bits are 0. -/
def statusWord (s : State) : Word :=
  flagAt s.busy 0 ||| flagAt s.done 1 ||| flagAt s.err 2 ||| fieldAt (keyStateBits s.key.state) 4 |||
    flagAt s.key.defaultKey 6 ||| flagAt s.key.lineInvalid 8 ||| flagAt s.key.dictFull 9 |||
    flagAt s.out.trailWarn 10

/-- DICT_INFO (10_state.md R36). -/
def dictInfoWord (s : State) : Word := fieldAt s.key.customCount 0 ||| fieldAt s.key.leafCount 16

/-- LINE_INFO (10_state.md R37). -/
def lineInfoWord (s : State) : Word := fieldAt s.key.invalidLines 0 ||| fieldAt s.key.fullLines 16

/-- CODE_INFO (10_state.md R38). -/
def codeInfoWord (s : State) : Word :=
  fieldAt s.key.minLen 0 ||| fieldAt s.key.maxLen 8 ||| fieldAt s.key.infoCount 16

/-- IRQ_STATUS.DONE_EV (10_state.md R40). -/
def doneEvent : BitVec 3 := 0b001#3
/-- IRQ_STATUS.ERR_EV (10_state.md R40). -/
def errEvent : BitVec 3 := 0b010#3
/-- IRQ_STATUS.DROP_EV (10_state.md R40). -/
def dropEvent : BitVec 3 := 0b100#3

/-- The events a completion with code `c` sets (45_control.md R182). -/
def completionEvents (c : ErrCode) : BitVec 3 :=
  if c = .ok then doneEvent else doneEvent ||| errEvent

/-- The write-one-to-clear rule of IRQ_STATUS (10_state.md R40). -/
def clearEvents (status : BitVec 3) (v : Word) : BitVec 3 := status &&& ~~~(v.extractLsb' 0 3)

/-- The interrupt output (60_exceptions.md R215), a function of the state and so recomputed after every
step. -/
def irq (s : State) : Bool :=
  (s.irqStatus.getLsbD 0 && s.irqEn.getLsbD 0) || (s.irqStatus.getLsbD 1 && s.irqEn.getLsbD 1) ||
    (s.irqStatus.getLsbD 2 && s.irqEn.getLsbD 2)

/-- The code a successful install reports, by its line counts (40_install.md R110). -/
def installCode (invalidLines fullLines : Nat) : ErrCode :=
  if 0 < fullLines then .dictionaryFull
  else if 0 < invalidLines then .invalidExpressionLine
  else .ok

end Sys2Proof.Machine
end

