-- ==== Sys2Proof/Machine/Operands.lean ====
section
/-! DEFINITION. The data formats the commands read and write: hex digits (00_scope.md R15), nibbles and bits
(R11), the lines of a key text (30_encoding.md R84, R85) and the characters of a packed string (R87). -/

namespace Sys2Proof.Machine

/-- HexVal (00_scope.md R15); `none` is the spec's "not a hex digit". -/
def hexVal (c : Byte) : Option Nibble :=
  if 0x30#8 ≤ c ∧ c ≤ 0x39#8 then some ((c - 0x30#8).setWidth 4)
  else if 0x61#8 ≤ c ∧ c ≤ 0x66#8 then some ((c - 0x61#8 + 10#8).setWidth 4)
  else if 0x41#8 ≤ c ∧ c ≤ 0x46#8 then some ((c - 0x41#8 + 10#8).setWidth 4)
  else none

/-- HexChar (00_scope.md R15), lowercase. -/
def hexChar (v : Nibble) : Byte :=
  if v < 10#4 then 0x30#8 + v.setWidth 8 else 0x61#8 + v.setWidth 8 - 10#8

/-- The values of a byte string of hex digits; `none` if any byte is no hex digit. -/
def hexVals : List Byte → Option (List Nibble)
  | [] => some []
  | c :: cs =>
    match hexVal c, hexVals cs with
    | some v, some vs => some (v :: vs)
    | _, _ => none

/-- The bytes of whole hex pairs, first digit high; an odd last digit is ignored (30_encoding.md R85). -/
def hexPairs : List Nibble → List Byte
  | hi :: lo :: vs => (hi ++ lo) :: hexPairs vs
  | _ => []

/-- Bits4 (44_unpack.md R166): most-significant bit first. -/
def bits4 (v : Nibble) : Bits := [v.getLsbD 3, v.getLsbD 2, v.getLsbD 1, v.getLsbD 0]

/-- The nibble of four bits, first bit most significant (00_scope.md R11, 43_pack.md R149). -/
def nibbleOf (b3 b2 b1 b0 : Bool) : Nibble :=
  BitVec.ofBool b3 ++ (BitVec.ofBool b2 ++ (BitVec.ofBool b1 ++ BitVec.ofBool b0))

/-- A bit string of length 4k read as k nibbles (00_scope.md R11). -/
def nibblesOf : Bits → List Nibble
  | b3 :: b2 :: b1 :: b0 :: bs => nibbleOf b3 b2 b1 b0 :: nibblesOf bs
  | _ => []

/-- The bit string of a list of nibbles (44_unpack.md R166). -/
def bitsOf : List Nibble → Bits
  | [] => []
  | v :: vs => bits4 v ++ bitsOf vs

/-- The XOR of a list of nibbles, 0 for none (43_pack.md R150, 44_unpack.md R165). -/
def xorNibbles (vs : List Nibble) : Nibble := vs.foldr (fun v x => v ^^^ x) 0#4

/-- The newline byte. -/
def newline : Byte := 0x0A#8

/-- The carriage-return byte. -/
def carriageReturn : Byte := 0x0D#8

/-- The runs of a byte string between newline bytes, in order, never none (30_encoding.md R84). -/
def runsOf : List Byte → List (List Byte)
  | [] => [[]]
  | b :: bs =>
    if b = newline then [] :: runsOf bs
    else
      match runsOf bs with
      | r :: rs => (b :: r) :: rs
      | [] => [[b]]

/-- The runs less an empty last one: a newline ends a line and starts none (30_encoding.md R84). -/
def dropEmptyLast (rs : List (List Byte)) : List (List Byte) :=
  if rs.getLast? = some [] then rs.dropLast else rs

/-- One carriage return at the end of a line is removed (30_encoding.md R84). -/
def stripCr (r : List Byte) : List Byte :=
  if r.getLast? = some carriageReturn then r.dropLast else r

/-- SplitLines (30_encoding.md R84). -/
def splitLines (t : List Byte) : List (List Byte) := (dropEmptyLast (runsOf t)).map stripCr

/-- The fields of a valid key line. -/
structure KeyLine where
  weight : Byte
  expr : List Byte
  deriving DecidableEq, Repr

/-- Valid(L) and Fields(L) (30_encoding.md R85): `none` for an invalid line. A valid line has at least four
bytes, all hex digits; two give the weight, the whole pairs after them, at most fifteen, the expression. -/
def keyLine (line : List Byte) : Option KeyLine :=
  match hexVals line with
  | some (w1 :: w0 :: e1 :: e0 :: vs) =>
    some ⟨w1 ++ w0, (hexPairs (e1 :: e0 :: vs)).take maxExprLen⟩
  | _ => none

end Sys2Proof.Machine
end

