-- ==== Sys2Proof/Machine/Ops.lean ====
section
/-! DEFINITION. The named operations over memory and registers: byte reads and writes of the data windows,
the common completion, the entry into an error, the reset state, the dropped write. -/

namespace Sys2Proof.Machine

/-- The listed byte at an address; `none` where nothing is listed. -/
def memRead (m : Memory) (a : Nat) : Option Byte :=
  match m with
  | [] => none
  | c :: cs => if c.1 = a then some c.2 else memRead cs a

/-- Writes one byte; the list stays strictly rising. -/
def memWrite (m : Memory) (a : Nat) (b : Byte) : Memory :=
  match m with
  | [] => [(a, b)]
  | c :: cs =>
    if a < c.1 then (a, b) :: c :: cs
    else if a = c.1 then (a, b) :: cs
    else c :: memWrite cs a b

/-- Writes bytes at consecutive addresses, the first at the lowest. -/
def memWriteBytes (m : Memory) (a : Nat) : List Byte → Memory
  | [] => m
  | b :: bs => memWriteBytes (memWrite m a b) (a + 1) bs

/-- Makes the `n` bytes from `base` draws again: nothing is listed for them. -/
def memForget (m : Memory) (base n : Nat) : Memory :=
  m.filter (fun c => !(decide (base ≤ c.1) && decide (c.1 < base + n)))

/-- The canonical form of memory: addresses strictly rising. An unlisted byte is a draw, which no listed
byte equals as data, so every written byte is listed (log entry 5). -/
abbrev Memory.wf (m : Memory) : Prop := m.Pairwise (fun c d => c.1 < d.1)

/-- Which free values the unwritten bytes of an address's window are. -/
def epochAt (s : State) (a : Nat) : Nat :=
  if dstBase ≤ a ∧ a < dstBase + s.cfg.dstMax then s.dstEpoch else s.keySrcEpoch

/-- The byte a data window holds at a host address: the listed one, or a draw where nobody has written
since the window's bytes became draws (20_memory.md R55, R62). -/
def byteAt (s : State) (a : Nat) : Byte :=
  match memRead s.mem a with
  | some b => b
  | none => Config.freeByte (epochAt s a) a

/-- The `n` bytes from an address on. -/
def bytesAt (s : State) (base n : Nat) : List Byte := (List.range n).map (fun i => byteAt s (base + i))

/-- KEYMEM[0..KEY_LEN) (20_memory.md R52). -/
def keyText (s : State) : List Byte := bytesAt s keyBase s.keyLen.toNat

/-- SRCMEM[0..SRC_LEN) (20_memory.md R54). -/
def sourceBytes (s : State) : List Byte := bytesAt s srcBase s.srcLen.toNat

/-- DSTMEM[0..DST_LEN) (20_memory.md R55). -/
def resultBytes (s : State) : List Byte := bytesAt s dstBase s.out.dstLen.toNat

/-- Takes the next free value's number. -/
def nextDraw (s : State) : State := { s with draws := s.draws + 1 }

/-- Every byte of DSTMEM becomes a fresh draw (20_memory.md R55). -/
def drawDst (s : State) : State :=
  nextDraw { s with mem := memForget s.mem dstBase s.cfg.dstMax, dstEpoch := s.draws }

/-- Writes the result of a PACK or an UNPACK: its bytes from DSTMEM[0] on, draws behind them
(20_memory.md R55), and the result registers. -/
def writeResult (bytes : List Byte) (regs : ResultRegs) (s : State) : State :=
  { drawDst s with mem := memWriteBytes (drawDst s).mem dstBase bytes, out := regs }

/-- PackFail (43_pack.md R152) and UnpackFail (44_unpack.md R170): no result. -/
def noResult (s : State) : State := { drawDst s with out := ResultRegs.absent }

/-- Complete(c), the one step every accepted command ends in (45_control.md R182). -/
def complete (c : ErrCode) (s : State) : State :=
  { s with
    errCode := c
    err := decide (c ≠ .ok)
    engine := .idle
    done := true
    irqStatus := s.irqStatus ||| completionEvents c }

/-- Error entry (60_exceptions.md R207, 00_scope.md R13): the command's failure path, then the completion
with the raised code. No context is saved and there is no return from it (R208). -/
def raiseError (e : ErrCode) (failurePath : State → State) (s : State) : State :=
  complete e (failurePath s)

/-- The failure path of an INSTALL refused by its length check and of an illegal command: nothing
(60_exceptions.md R207). -/
def noFailurePath (s : State) : State := s

/-- ResetState(keep_memories) of 70_reset_and_hazards.md R231. The parameters are constants; the memories
stay or become fresh draws. The queue of the outside world and the model's own counter go on. -/
def resetState (keepMemories : Bool) (s : State) : State :=
  if keepMemories then
    { State.reset with
      cfg := s.cfg, mem := s.mem, keySrcEpoch := s.keySrcEpoch, dstEpoch := s.dstEpoch,
      draws := s.draws, queue := s.queue, port := s.port }
  else
    { State.reset with
      cfg := s.cfg, keySrcEpoch := s.draws, dstEpoch := s.draws, draws := s.draws + 1,
      queue := s.queue }

/-- A host write dropped because BUSY = 1 (45_control.md R184): only DROP_EV. -/
def dropWrite (s : State) : State := { s with irqStatus := s.irqStatus ||| dropEvent }

end Sys2Proof.Machine
end

