-- ==== Sys2Proof/Machine/Control.lean ====
section
/-! DEFINITION. The two commands without a HUF operation: RESET and the illegal command (45_control.md R186,
R187). -/

namespace Sys2Proof.Machine

/-- RESET (R186): the reset state with the memories kept, CMD_LAST = 0xF, completion with OK. -/
def resetCommand (s : State) : State := complete .ok { resetState true s with cmdLast := 0xF#4 }

/-- The illegal command (R187): the completion with IllegalCommand and nothing else. -/
def illegalCommand (s : State) : State := raiseError .illegalCommand noFailurePath s

/-- The meaning of RESET (45_control.md R186). -/
def execReset (s : State) : Host.Outcome State Fault Refusal := .next (resetCommand s)

/-- The meaning of every illegal word (45_control.md R187); its fields change nothing but CMD_LAST, which
the acceptance has written (R180). -/
def execIllegal (s : State) : Host.Outcome State Fault Refusal := .next (illegalCommand s)

end Sys2Proof.Machine
end

