-- ==== Sys2Proof/Machine/Dictionary.lean ====
section
/-! DEFINITION. The dictionary builder (40_install.md R102 to R108). -/

namespace Sys2Proof.Machine

/-- What DictBuild leaves: DICT and the two line counts. -/
structure DictBuild where
  dict : List DictEntry
  invalidLines : Nat
  fullLines : Nat
  deriving DecidableEq, Repr

/-- Dup(expr, n) (R104), over the entries stored so far. -/
def isDuplicate (stored : List DictEntry) (expr : List Byte) : Bool :=
  stored.any (fun e => e.active && decide (e.expr = expr))

/-- One more rejected line; the counts saturate (R103, 10_state.md R37). -/
def countLine (n : Nat) : Nat := min (n + 1) lineCountMax

/-- One line of the key text (R103, R105): an invalid line is counted, a valid line past the capacity is
counted, any other is stored as the next custom entry. -/
def addLine (p : Params) (b : DictBuild) (line : List Byte) : DictBuild :=
  match keyLine line with
  | none => { b with invalidLines := countLine b.invalidLines }
  | some l =>
    if b.dict.length = p.customMax then { b with fullLines := countLine b.fullLines }
    else
      { b with
        dict := b.dict ++ [{ weight := l.weight.setWidth 32, expr := l.expr, custom := true,
                             active := !isDuplicate b.dict l.expr }] }

/-- The custom lines in order, first line first (R102, R103). -/
def addLines (p : Params) (t : List Byte) : DictBuild :=
  (splitLines t).foldl (addLine p) ⟨[], 0, 0⟩

/-- FREQ (R108): space, double quote, colon, period, comma, newline, and FREQ_EXTRA. -/
def isFrequent (p : Params) (b : Byte) : Bool :=
  [0x20#8, 0x22#8, 0x3A#8, 0x2E#8, 0x2C#8, 0x0A#8].contains b || p.freqExtra.contains b

/-- ByteWeight (R107), the first matching row. -/
def byteWeight (p : Params) (b : Byte) : Word :=
  if isFrequent p b then wFreq
  else if 0x61#8 ≤ b ∧ b ≤ 0x7A#8 then wLower
  else if 0x20#8 ≤ b ∧ b ≤ 0x7E#8 then wPrint
  else wOther

/-- The byte entry of one byte value; the earlier active custom entry of that byte wins (R104, R106). -/
def byteEntry (p : Params) (customs : List DictEntry) (b : Byte) : DictEntry where
  weight := byteWeight p b
  expr := [b]
  custom := false
  active := !isDuplicate customs [b]

/-- Every byte value, ascending (R106). -/
def allBytes : List Byte := (List.range byteEntries).map (BitVec.ofNat 8)

/-- RegisterBytes (R106). -/
def registerBytes (p : Params) (customs : List DictEntry) : List DictEntry :=
  customs ++ allBytes.map (byteEntry p customs)

/-- DictBuild(t) (R103): the custom entries, then the 256 byte entries. -/
def dictBuild (p : Params) (t : List Byte) : DictBuild :=
  { addLines p t with dict := registerBytes p (addLines p t).dict }

/-- The number n of custom entries a key text stores (R103; DICT_INFO.CUSTOM_COUNT). -/
def customCountOf (p : Params) (t : List Byte) : Nat := (addLines p t).dict.length

end Sys2Proof.Machine
end

