-- ==== Sys2Proof/Machine/Tree.lean ====
section
/-! DEFINITION. The Huffman tree builder (41_tree_builder.md R115 to R125). -/

namespace Sys2Proof.Machine

/-- The state of the tree builder: POOL, INSET and ROOT. -/
structure TreeState where
  pool : List Node
  inset : Bits
  root : Nat
  deriving DecidableEq, Repr

/-- POOL[i]; an index nothing has been written to is EMPTY (10_state.md R44). -/
def nodeAt (pool : List Node) (i : Nat) : Node := pool[i]?.getD .empty

/-- The weight of a node. An EMPTY node is never in the working set, so its weight is never compared. -/
def nodeWeight : Node → Word
  | .empty => 0#32
  | .leaf w _ => w
  | .internal w _ _ => w

/-- The leaves of a dictionary whose first entry has index `i` (R116): active entries in order. -/
def leavesFrom (i : Nat) : List DictEntry → List Node
  | [] => []
  | e :: es => if e.active then .leaf e.weight i :: leavesFrom (i + 1) es else leavesFrom (i + 1) es

/-- MakeLeaves (R116): pool indices 0..N-1 in dictionary order, all in the working set. ROOT is not
written. -/
def makeLeaves (dict : List DictEntry) (root : Nat) : TreeState where
  pool := leavesFrom 0 dict
  inset := List.replicate (leavesFrom 0 dict).length true
  root := root

/-- One pass of the scan of R117 from index `i` on: `best` is the index and weight found so far, and only a
strictly smaller weight replaces it. -/
def scanFrom (i : Nat) (best : Option (Nat × Word)) : List Node → Bits → Option (Nat × Word)
  | n :: ns, b :: bs =>
    scanFrom (i + 1)
      (match b, best with
       | false, _ => best
       | true, none => some (i, nodeWeight n)
       | true, some (j, w) => if nodeWeight n < w then some (i, nodeWeight n) else some (j, w))
      ns bs
  | _, _ => best

/-- ScanMin (R117): the lowest index of the smallest weight in the working set. -/
def scanMin (pool : List Node) (inset : Bits) : Option Nat := (scanFrom 0 none pool inset).map Prod.fst

/-- INSET[a] <- 0 (R118). -/
def removeNode (t : TreeState) (a : Nat) : TreeState := { t with inset := t.inset.set a false }

/-- Merge(a, b) (R119), after the pool check: the new node takes the next free index and joins the working
set there; the first-removed node is its left child. -/
def mergeNodes (t : TreeState) (a b : Nat) : TreeState :=
  { t with
    pool := t.pool ++ [.internal (nodeWeight (nodeAt t.pool a) + nodeWeight (nodeAt t.pool b)) a b]
    inset := t.inset ++ [true] }

/-- The loop of R115. `n` is the number of nodes in the working set: each pass that merges makes it one
smaller (R121), and an empty working set is a failed first scan (R122). -/
def mergeLoop (cap : Nat) (t : TreeState) : Nat → TreeState × Option ErrCode
  | 0 => (t, some .treeBuildFailure)
  | n + 1 =>
    match scanMin t.pool t.inset with
    | none => (t, some .treeBuildFailure)
    | some a =>
      match scanMin t.pool (removeNode t a).inset with
      | none => ({ removeNode t a with root := a }, none)
      | some b =>
        if t.pool.length = cap then (removeNode (removeNode t a) b, some .allocationFailure)
        else mergeLoop cap (mergeNodes (removeNode (removeNode t a) b) a b) n

/-- The last check of R115: a root that is a leaf is a failed build (R123, C3). -/
def checkRoot : TreeState × Option ErrCode → TreeState × Option ErrCode
  | (t, some e) => (t, some e)
  | (t, none) =>
    match nodeAt t.pool t.root with
    | .leaf _ _ => (t, some .treeBuildFailure)
    | _ => (t, none)

/-- TreeBuild (R115): the tree state it leaves, and the error it raises if it raises one. -/
def treeBuild (cap : Nat) (dict : List DictEntry) (root : Nat) : TreeState × Option ErrCode :=
  checkRoot (mergeLoop cap (makeLeaves dict root) (makeLeaves dict root).pool.length)

end Sys2Proof.Machine
end

