-- ==== Sys2Proof/Machine/CodeTable.lean ====
section
/-! DEFINITION. The code table generator (42_code_table.md R130 to R135), the tree's edges (30_encoding.md
R88) and the CTMEM view of the code table (R89, R90). -/

namespace Sys2Proof.Machine

/-- The child an edge bit leads to: 0 left, 1 right (30_encoding.md R88); only an internal node has
children. -/
def childOf : Node → Bool → Option Nat
  | .internal _ l _, false => some l
  | .internal _ _ r, true => some r
  | .empty, _ => none
  | .leaf _ _, _ => none

/-- DICT[i]. No rule reads an index that is not stored; the entry given there is never used. -/
def dictAt (dict : List DictEntry) (i : Nat) : DictEntry := dict[i]?.getD ⟨0#32, [], false, false⟩

/-- Visit(n, path) of R130 as the list of entries it records, in order. `room` is MAX_CODE_LEN - |path|, so
an internal node with no room raises CodeTooLong (R133); an EMPTY node raises TraversalFailure (R134). -/
def visit (pool : List Node) (dict : List DictEntry) (n : Nat) (path : Bits) :
    Nat → Except ErrCode (List CodeEntry)
  | 0 =>
    match nodeAt pool n with
    | .empty => .error .traversalFailure
    | .leaf _ dix => .ok [⟨(dictAt dict dix).expr, path⟩]
    | .internal _ _ _ => .error .codeTooLong
  | room + 1 =>
    match nodeAt pool n with
    | .empty => .error .traversalFailure
    | .leaf _ dix => .ok [⟨(dictAt dict dix).expr, path⟩]
    | .internal _ l r =>
      match visit pool dict l (path ++ [false]) room with
      | .error e => .error e
      | .ok ls =>
        match visit pool dict r (path ++ [true]) room with
        | .error e => .error e
        | .ok rs => .ok (ls ++ rs)

/-- CodeGen (R130): pre-order from ROOT, left first. -/
def codeGen (pool : List Node) (dict : List DictEntry) (root : Nat) : Except ErrCode (List CodeEntry) :=
  visit pool dict root [] maxCodeLen

/-- The shortest code length of a code table (R135); 0 for an empty table. -/
def minCodeLen : List CodeEntry → Nat
  | [] => 0
  | e :: es => es.foldl (fun m e => min m e.code.length) e.code.length

/-- The longest code length of a code table (R135). -/
def maxLenOfCodes (ct : List CodeEntry) : Nat := ct.foldl (fun m e => max m e.code.length) 0

/-- One bit of a code, 0 past its end (30_encoding.md R89). -/
def codeBit (code : Bits) (k : Nat) : Bool := code[k]?.getD false

/-- Code byte i of an entry: bit (7 - b) is code[8i + b] (30_encoding.md R89). -/
def codeByte (code : Bits) (i : Nat) : Byte :=
  nibbleOf (codeBit code (8 * i)) (codeBit code (8 * i + 1)) (codeBit code (8 * i + 2)) (codeBit code (8 * i + 3)) ++
    nibbleOf (codeBit code (8 * i + 4)) (codeBit code (8 * i + 5)) (codeBit code (8 * i + 6)) (codeBit code (8 * i + 7))

/-- Byte `off` of the 64 bytes of a valid entry (30_encoding.md R89). -/
def entryByte (e : CodeEntry) (off : Nat) : Byte :=
  if off = 0 then BitVec.ofNat 8 (e.expr.length % 16)
  else if off = 1 then BitVec.ofNat 8 e.code.length
  else if off = 3 then 0x80#8
  else if 0x10 ≤ off ∧ off < 0x1F then e.expr[off - 0x10]?.getD 0#8
  else if 0x20 ≤ off ∧ off < 0x30 then codeByte e.code (off - 0x20)
  else 0#8

/-- The byte CTMEM shows at a host address (20_memory.md R53): an entry that is not valid reads as 0. -/
def ctByte (s : State) (a : Nat) : Byte :=
  match s.key.ct[(a - ctBase) / ctEntryBytes]? with
  | none => 0#8
  | some e => entryByte e ((a - ctBase) % ctEntryBytes)

end Sys2Proof.Machine
end

