-- ==== Sys2Proof/Machine/Install.lean ====
section
/-! DEFINITION. INSTALL (40_install.md R100, R101, R109, R110), and the key check that PACK and UNPACK run
(45_control.md R185). -/

namespace Sys2Proof.Machine

/-- Discard (R101): no part of the old tables survives. ROOT and the information registers wait for the
units that write them. -/
def discardKey (k : KeyTables) : KeyTables := { k with ct := [], pool := [], inset := [], dict := [] }

/-- What DictBuild writes (R103): DICT, CUSTOM_COUNT, LINE_INFO, STATUS.LINE_INVALID and DICT_FULL. -/
def withDictionary (customs : Nat) (b : DictBuild) (k : KeyTables) : KeyTables :=
  { k with
    dict := b.dict
    customCount := BitVec.ofNat 8 customs
    invalidLines := BitVec.ofNat 16 b.invalidLines
    fullLines := BitVec.ofNat 16 b.fullLines
    lineInvalid := decide (0 < b.invalidLines)
    dictFull := decide (0 < b.fullLines) }

/-- What TreeBuild writes: POOL, INSET, ROOT (41_tree_builder.md R115). -/
def withTree (t : TreeState) (k : KeyTables) : KeyTables :=
  { k with pool := t.pool, inset := t.inset, root := t.root }

/-- What CodeGen writes: CT and CODE_INFO (42_code_table.md R130, R135). -/
def withCodes (ct : List CodeEntry) (k : KeyTables) : KeyTables :=
  { k with
    ct := ct
    minLen := BitVec.ofNat 8 (minCodeLen ct)
    maxLen := BitVec.ofNat 8 (maxLenOfCodes ct)
    infoCount := BitVec.ofNat 9 ct.length }

/-- Finish(implicit) (R109). -/
def finishKey (implicit : Bool) (leaves : Nat) (k : KeyTables) : KeyTables :=
  { k with state := .valid, defaultKey := implicit, leafCount := BitVec.ofNat 9 leaves }

/-- FailInstall (R109), less the error code: no code-table entry stays valid, CODE_INFO and LEAF_COUNT are
0, this install's line counts stay. -/
def failKey (k : KeyTables) : KeyTables :=
  { k with
    ct := [], state := .failed, defaultKey := false, leafCount := 0#9
    minLen := 0#8, maxLen := 0#8, infoCount := 0#9 }

/-- The number N of leaves of a dictionary (41_tree_builder.md R116). -/
def leafCountOf (dict : List DictEntry) : Nat := (leavesFrom 0 dict).length

/-- CodeGen and Finish once the tree stands, or FailInstall (R100, R109). -/
def finishInstall (implicit : Bool) (b : DictBuild) (k : KeyTables) : KeyTables × Except ErrCode ErrCode :=
  match codeGen k.pool k.dict k.root with
  | .error e => (failKey k, .error e)
  | .ok ct =>
    (finishKey implicit (leafCountOf b.dict) (withCodes ct k), .ok (installCode b.invalidLines b.fullLines))

/-- Install(t, implicit) (R100): what it leaves of the key tables, and either the fatal error it raises or
the code it reports (R110). -/
def installKey (p : Params) (t : List Byte) (implicit : Bool) (k : KeyTables) :
    KeyTables × Except ErrCode ErrCode :=
  let b := dictBuild p t
  let k1 := withDictionary (customCountOf p t) b (discardKey k)
  match treeBuild (nodeCap p) b.dict k1.root with
  | (tree, some e) => (failKey (withTree tree k1), .error e)
  | (tree, none) => finishInstall implicit b (withTree tree k1)

/-- The code an install leaves in ERR_CODE: the fatal error it raised, or the one it reports (R109, R110). -/
def reportedCode : Except ErrCode ErrCode → ErrCode
  | .error e => e
  | .ok c => c

/-- INSTALL (R100) with its completion (45_control.md R182). -/
def installCommand (s : State) : State :=
  if s.cfg.keyMax < s.keyLen.toNat then raiseError .capacityError noFailurePath s
  else
    let r := installKey s.cfg (keyText s) false s.key
    complete (reportedCode r.2) { s with key := r.1 }

/-- EnsureKey (45_control.md R185): the state it leaves, and the error it raises if it raises one. With
KEY_STATE = NONE it installs DEFAULT_KEY; the install's own warning code is not reported. -/
def ensureKey (s : State) : State × Option ErrCode :=
  match s.key.state with
  | .valid => (s, none)
  | .failed => (s, some .notReady)
  | .none =>
    let r := installKey s.cfg s.cfg.defaultKey true s.key
    ({ s with key := r.1 },
     match r.2 with
     | .error e => some e
     | .ok _ => none)

/-- The meaning of INSTALL (40_install.md R100). -/
def execInstall (s : State) : Host.Outcome State Fault Refusal := .next (installCommand s)

end Sys2Proof.Machine
end

