-- ==== Sys2Proof/Machine/Pack.lean ====
section
/-! DEFINITION. PACK: the greedy longest-match tokenizer and the bit-stream packer (43_pack.md R140 to R155). -/

namespace Sys2Proof.Machine

/-- Lookup(s) (R144): the valid entry whose expression is exactly these bytes. -/
def lookupCode (ct : List CodeEntry) (s : List Byte) : Option CodeEntry :=
  ct.find? (fun e => decide (e.expr = s))

/-- The candidate lengths from `l` down to 1 (R143): the first that the code table holds, with its entry. -/
def matchFrom (ct : List CodeEntry) (rest : List Byte) : Nat → Option (Nat × CodeEntry)
  | 0 => none
  | l + 1 =>
    match lookupCode ct (rest.take (l + 1)) with
    | some e => some (l + 1, e)
    | none => matchFrom ct rest l

/-- The longest expression of the code table that starts the rest of the input (R143); it never looks past
the end of the input. -/
def longestMatch (ct : List CodeEntry) (rest : List Byte) : Option (Nat × CodeEntry) :=
  matchFrom ct rest (min maxExprLen rest.length)

/-- The limit of the bit buffer: the data nibbles that fit in DSTMEM (R145). -/
def bitBufferMax (dstMax : Nat) : Nat := 4 * (dstMax - 2)

/-- Tokenize (R143) from a cursor on: `skip` bytes of the input belong to the token just taken, `bits` is
the bit buffer so far. -/
def tokenizeFrom (ct : List CodeEntry) (dstMax : Nat) (skip : Nat) (bits : Bits) :
    List Byte → Except ErrCode Bits
  | [] => .ok bits
  | b :: rest =>
    match skip with
    | k + 1 => tokenizeFrom ct dstMax k bits rest
    | 0 =>
      match longestMatch ct (b :: rest) with
      | none => .error .encodingFailure
      | some (l, e) =>
        if bitBufferMax dstMax < (bits ++ e.code).length then .error .capacityError
        else tokenizeFrom ct dstMax (l - 1) (bits ++ e.code) rest

/-- Tokenize(T) (R143). -/
def tokenize (ct : List CodeEntry) (dstMax : Nat) (payload : List Byte) : Except ErrCode Bits :=
  tokenizeFrom ct dstMax 0 [] payload

/-- The output bit of a generator state (R146). -/
def lfsrOut (s : BitVec 16) : Bool := s.getLsbD 15

/-- The state after one LfsrStep (R146). -/
def lfsrNext (s : BitVec 16) : BitVec 16 :=
  (s <<< 1) |||
    (BitVec.ofBool (s.getLsbD 15 ^^ s.getLsbD 13 ^^ s.getLsbD 12 ^^ s.getLsbD 10)).setWidth 16

/-- The outputs of `n` successive steps, first output first (R148). -/
def lfsrBits (s : BitVec 16) : Nat → Bits
  | 0 => []
  | n + 1 => lfsrOut s :: lfsrBits (lfsrNext s) n

/-- The state after `n` steps. -/
def lfsrAfter (s : BitVec 16) : Nat → BitVec 16
  | 0 => s
  | n + 1 => lfsrAfter (lfsrNext s) n

/-- The pad count of a bit count (R147). -/
def padCount (l : Nat) : Nat := (8 - l % 8) % 8

/-- The data nibbles of a bit buffer: pad bits in front, then the code bits (R148, R149). -/
def dataNibbles (rng : BitVec 16) (bits : Bits) : List Nibble :=
  nibblesOf (lfsrBits rng (padCount bits.length) ++ bits)

/-- The packed string of the code bits (R149 to R151, 30_encoding.md R87). -/
def packedString (rng : BitVec 16) (bits : Bits) : List Byte :=
  hexChar (BitVec.ofNat 4 (padCount bits.length)) ::
    ((dataNibbles rng bits).map hexChar ++ [hexChar (xorNibbles (dataNibbles rng bits))])

/-- The length K + 2 of the packed string of `l` code bits (R140, R151). -/
def packedLength (l : Nat) : Nat := (l + padCount l) / 4 + 2

/-- The last part of PACK (R140): the output check before any pad bit is drawn (R151), then the result and
the generator's `p` steps. -/
def packBits (bits : Bits) (s : State) : State :=
  if s.cfg.dstMax < packedLength bits.length then raiseError .capacityError noResult s
  else
    complete .ok
      { writeResult (packedString s.rng bits)
          { dstLen := BitVec.ofNat 16 (packedLength bits.length)
            pad := BitVec.ofNat 3 (padCount bits.length)
            trail := 0#8
            trailWarn := false } s with
        rng := lfsrAfter s.rng (padCount bits.length) }

/-- PACK once a key is VALID. -/
def packPayload (s : State) : State :=
  match tokenize s.key.ct s.cfg.dstMax (sourceBytes s) with
  | .error e => raiseError e noResult s
  | .ok bits => packBits bits s

/-- PACK (R140) with its completion (45_control.md R182). -/
def packCommand (s : State) : State :=
  if s.cfg.srcMax < s.srcLen.toNat then raiseError .capacityError noResult s
  else
    match ensureKey s with
    | (s1, some e) => raiseError e noResult s1
    | (s1, none) => packPayload s1

/-- The meaning of PACK (43_pack.md R140). -/
def execPack (s : State) : Host.Outcome State Fault Refusal := .next (packCommand s)

end Sys2Proof.Machine
end

