-- ==== Sys2Proof/Machine/Unpack.lean ====
section
/-! DEFINITION. UNPACK: the frame check, the bit-stream unpacker and the tree walk (44_unpack.md R160 to
R170). -/

namespace Sys2Proof.Machine

/-- The packed string of the empty payload, `00` (R163). -/
def emptyPacket : List Byte := [0x30#8, 0x30#8]

/-- A packed string that passed the checks of R164 and R165: its pad count and its data nibbles. -/
structure Frame where
  pad : Nat
  data : List Nibble
  deriving DecidableEq, Repr

/-- The checksum comparison of R165 over the hex values of S[1..n-1], the last of which is the checksum. -/
def checkSum (pad : Nat) (vs : List Nibble) : Except ErrCode Frame :=
  if xorNibbles vs.dropLast = vs.getLast?.getD 0#4 then .ok ⟨pad, vs.dropLast⟩ else .error .checksumError

/-- The checks of R164 in their order (length, pad digit, hex digits of every later position), then the
checksum (R165). -/
def checkFrame : List Byte → Except ErrCode Frame
  | [] => .error .formatError
  | c :: cs =>
    if (c :: cs).length ≤ 2 ∨ (c :: cs).length % 2 = 1 then .error .formatError
    else if c < 0x30#8 ∨ 0x37#8 < c then .error .formatError
    else
      match hexVals cs with
      | none => .error .formatError
      | some vs => checkSum (c - 0x30#8).toNat vs

/-- The code bits of a frame: the data nibbles' bits, pad bits removed (R166). -/
def frameBits (f : Frame) : Bits := (bitsOf f.data).drop f.pad

/-- What a walk gives: the output and the number of bits below the root at the end (R167). -/
structure WalkResult where
  output : List Byte
  depth : Nat
  deriving DecidableEq, Repr

/-- Walk (R167) from a node `d` bits below the root. An edge that leads to an EMPTY node, or that no
internal node has, is the corrupted tree of TraversalFailure (log entry 8). -/
def walkFrom (k : KeyTables) (dstMax : Nat) (node d : Nat) (out : List Byte) :
    Bits → Except ErrCode WalkResult
  | [] => .ok ⟨out, d⟩
  | b :: bs =>
    match childOf (nodeAt k.pool node) b with
    | none => .error .traversalFailure
    | some n =>
      match nodeAt k.pool n with
      | .empty => .error .traversalFailure
      | .internal _ _ _ => walkFrom k dstMax n (d + 1) out bs
      | .leaf _ dix =>
        if dstMax < out.length + (dictAt k.dict dix).expr.length then .error .capacityError
        else walkFrom k dstMax k.root 0 (out ++ (dictAt k.dict dix).expr) bs

/-- Walk(bits) (R167). -/
def walk (k : KeyTables) (dstMax : Nat) (bits : Bits) : Except ErrCode WalkResult :=
  walkFrom k dstMax k.root 0 [] bits

/-- The result registers of a successful UNPACK (R160, R168). -/
def unpackRegs (pad : Nat) (w : WalkResult) : ResultRegs where
  dstLen := BitVec.ofNat 16 w.output.length
  pad := BitVec.ofNat 3 pad
  trail := BitVec.ofNat 8 w.depth
  trailWarn := decide (0 < w.depth)

/-- UNPACK of a string that passed its checks. -/
def unpackFrame (f : Frame) (s : State) : State :=
  match walk s.key s.cfg.dstMax (frameBits f) with
  | .error e => raiseError e noResult s
  | .ok w => complete .ok (writeResult w.output (unpackRegs f.pad w) s)

/-- UNPACK once a key is VALID: the empty packet first (R163), then the checks. -/
def unpackSource (s : State) : State :=
  if sourceBytes s = emptyPacket then complete .ok (writeResult [] ResultRegs.absent s)
  else
    match checkFrame (sourceBytes s) with
    | .error e => raiseError e noResult s
    | .ok f => unpackFrame f s

/-- UNPACK (R160) with its completion (45_control.md R182). -/
def unpackCommand (s : State) : State :=
  if s.cfg.srcMax < s.srcLen.toNat then raiseError .capacityError noResult s
  else
    match ensureKey s with
    | (s1, some e) => raiseError e noResult s1
    | (s1, none) => unpackSource s1

/-- The meaning of UNPACK (44_unpack.md R160). -/
def execUnpack (s : State) : Host.Outcome State Fault Refusal := .next (unpackCommand s)

end Sys2Proof.Machine
end

