-- ==== Sys2Proof/Machine/Dispatch.lean ====
section
/-! DEFINITION. The one match from instructions to their meanings. -/

namespace Sys2Proof.Machine

/-- Runs an accepted command to its completion (45_control.md R181). -/
def exec (i : Instr) (s : State) : Host.Outcome State Fault Refusal :=
  match i with
  | .install => Sys2Proof.Machine.execInstall s
  | .pack => Sys2Proof.Machine.execPack s
  | .unpack => Sys2Proof.Machine.execUnpack s
  | .reset => Sys2Proof.Machine.execReset s
  | .illegal _ _ => Sys2Proof.Machine.execIllegal s

end Sys2Proof.Machine
end

