-- ==== Sys2Proof/Machine/HostPort.lean ====
section
/-! DEFINITION. The host port: the register map (10_state.md R23), which accesses are legal (20_memory.md R51,
R56), what reads return (R48, R53, R57) and what writes do (45_control.md R180, R184, R192). -/

namespace Sys2Proof.Machine

/-- The registers of 10_state.md R23. -/
inductive Reg where
  | id | param0 | param1 | param2 | cmd | status | errCode | keyLen | srcLen | dstLen | pad | trail
  | dictInfo | lineInfo | codeInfo | irqEn | irqStatus | rngState
  deriving DecidableEq, Repr

/-- The register at an offset of the register block; `none` for the reserved offsets and for offsets that
are no multiple of 4 (10_state.md R23, R42). -/
def regAt : Nat → Option Reg
  | 0x000 => some .id
  | 0x004 => some .param0
  | 0x008 => some .param1
  | 0x00C => some .param2
  | 0x010 => some .cmd
  | 0x014 => some .status
  | 0x018 => some .errCode
  | 0x020 => some .keyLen
  | 0x024 => some .srcLen
  | 0x028 => some .dstLen
  | 0x02C => some .pad
  | 0x030 => some .trail
  | 0x034 => some .dictInfo
  | 0x038 => some .lineInfo
  | 0x03C => some .codeInfo
  | 0x040 => some .irqEn
  | 0x044 => some .irqStatus
  | 0x048 => some .rngState
  | _ => none

/-- The offset of a register (10_state.md R23). -/
def regOffset : Reg → BitVec 20
  | .id => 0x000#20
  | .param0 => 0x004#20
  | .param1 => 0x008#20
  | .param2 => 0x00C#20
  | .cmd => 0x010#20
  | .status => 0x014#20
  | .errCode => 0x018#20
  | .keyLen => 0x020#20
  | .srcLen => 0x024#20
  | .dstLen => 0x028#20
  | .pad => 0x02C#20
  | .trail => 0x030#20
  | .dictInfo => 0x034#20
  | .lineInfo => 0x038#20
  | .codeInfo => 0x03C#20
  | .irqEn => 0x040#20
  | .irqStatus => 0x044#20
  | .rngState => 0x048#20

/-- What lies at a byte address (20_memory.md R51). -/
inductive Region where
  | regs | keyMem | srcMem | dstMem | ctMem | reserved
  deriving DecidableEq, Repr

/-- The address map with the sizes used (20_memory.md R51): an offset at or beyond the size used is
reserved. -/
def regionAt (p : Params) (a : Nat) : Region :=
  if a < 0x100 then .regs
  else if keyBase ≤ a ∧ a < keyBase + p.keyMax then .keyMem
  else if srcBase ≤ a ∧ a < srcBase + p.srcMax then .srcMem
  else if dstBase ≤ a ∧ a < dstBase + p.dstMax then .dstMem
  else if ctBase ≤ a ∧ a < ctBase + ctEntryBytes * dictCap p then .ctMem
  else .reserved

/-- Whether an address belongs to a data window the host can write (20_memory.md R51). -/
def inDataWindow (p : Params) (a : Nat) : Bool :=
  match regionAt p a with
  | .keyMem | .srcMem | .dstMem => true
  | .regs | .ctMem | .reserved => false

/-- Widths and alignment (20_memory.md R56): 1, 2 or 4 bytes at a multiple of the size. -/
def aligned (a n : Nat) : Bool := (n == 1 || n == 2 || n == 4) && a % n == 0

/-- Which accesses are not bus errors (20_memory.md R51, R56): registers by aligned words, windows by
naturally aligned accesses that lie in the size used as a whole (log entry 9), CTMEM by reads only. -/
def accessLegal (p : Params) (isWrite : Bool) (a n : Nat) : Bool :=
  aligned a n &&
    match regionAt p a with
    | .regs => n == 4 && (regAt a).isSome
    | .keyMem | .srcMem | .dstMem => regionAt p (a + n - 1) == regionAt p a
    | .ctMem => !isWrite && regionAt p (a + n - 1) == .ctMem
    | .reserved => false

/-- The exact value of a register (10_state.md R24 to R41). -/
def regValue (s : State) : Reg → Word
  | .id => idValue
  | .param0 => param0Word s
  | .param1 => param1Word s
  | .param2 => param2Word s
  | .cmd => fieldAt s.cmdLast 0
  | .status => statusWord s
  | .errCode => fieldAt (codeBits s.errCode) 0
  | .keyLen => fieldAt s.keyLen 0
  | .srcLen => fieldAt s.srcLen 0
  | .dstLen => fieldAt s.out.dstLen 0
  | .pad => fieldAt s.out.pad 0
  | .trail => fieldAt s.out.trail 0
  | .dictInfo => dictInfoWord s
  | .lineInfo => lineInfoWord s
  | .codeInfo => codeInfoWord s
  | .irqEn => fieldAt s.irqEn 0
  | .irqStatus => fieldAt s.irqStatus 0
  | .rngState => fieldAt s.rng 0

/-- The bits of a register that read as draws while BUSY = 1 (10_state.md R48): the fields of the result
registers, and of STATUS the fields other than BUSY and DONE; reserved bits still read 0. -/
def drawMask : Reg → Word
  | .status => 0x00000774#32
  | .errCode => 0x0000000F#32
  | .dstLen => 0x0000FFFF#32
  | .pad => 0x00000007#32
  | .trail => 0x000000FF#32
  | .dictInfo => 0x01FF00FF#32
  | .lineInfo => 0xFFFFFFFF#32
  | .codeInfo => 0x01FFFFFF#32
  | .rngState => 0x0000FFFF#32
  | .id | .param0 | .param1 | .param2 | .cmd | .keyLen | .srcLen | .irqEn | .irqStatus => 0#32

/-- The value a register read returns: exact when idle, with the drawn bits of R48 while BUSY. -/
def readReg (s : State) (r : Reg) : Word :=
  if s.busy then (regValue s r &&& ~~~(drawMask r)) ||| (Config.busyRead s.draws &&& drawMask r)
  else regValue s r

/-- The little-endian word of a list of bytes (20_memory.md R57). -/
def wordOf : List Byte → Word
  | [] => 0#32
  | b :: bs => (wordOf bs <<< 8) ||| b.setWidth 32

/-- The `n` lowest bytes of a word, lowest first (20_memory.md R57). -/
def bytesOf (n : Nat) (v : Word) : List Byte := (List.range n).map (fun i => v.extractLsb' (8 * i) 8)

/-- The `n` lowest bytes of a draw as a word. -/
def drawnBytes (s : State) (n : Nat) : Word := wordOf (bytesOf n (Config.busyRead s.draws))

/-- MemRead(addr, n) of a legal access (20_memory.md R57): DSTMEM and CTMEM return draws while BUSY = 1, the
other windows read exactly (10_state.md R48). -/
def readValue (s : State) (a n : Nat) : Word :=
  match regionAt s.cfg a with
  | .regs =>
    match regAt a with
    | some r => readReg s r
    | none => 0#32
  | .keyMem | .srcMem => wordOf (bytesAt s a n)
  | .dstMem => if s.busy then drawnBytes s n else wordOf (bytesAt s a n)
  | .ctMem => if s.busy then drawnBytes s n else wordOf ((List.range n).map (fun i => ctByte s (a + i)))
  | .reserved => 0#32

/-- A host read: no side effect (20_memory.md R59); the response is the data or a bus error (R58). While
BUSY = 1 it uses up one draw. -/
def hostRead (addr : BitVec 20) (n : Nat) (s : State) : State :=
  if accessLegal s.cfg false addr.toNat n then
    { s with
      port := .readData (readValue s addr.toNat n)
      draws := if s.busy then s.draws + 1 else s.draws }
  else { s with port := .busError }

/-- A command request while idle (45_control.md R180): accepted. The number of internal steps before its
completion is a draw (R191). -/
def acceptCommand (v : Word) (steps : Nat) (s : State) : State :=
  { s with cmdLast := v.extractLsb' 0 4, done := false, engine := .running v steps }

/-- OnCmdWrite(v) (45_control.md R180). -/
def onCmdWrite (v : Word) (s : State) : State :=
  if s.busy then dropWrite s else acceptCommand v (Config.latency s.draws) (nextDraw s)

/-- A write that only an idle core takes (45_control.md R184). -/
def whenIdle (effect : State → State) (s : State) : State := if s.busy then dropWrite s else effect s

/-- A word write to a register (10_state.md R23, R49; 45_control.md R184, R192). -/
def writeReg (r : Reg) (v : Word) (s : State) : State :=
  match r with
  | .cmd => onCmdWrite v s
  | .keyLen => whenIdle (fun s => { s with keyLen := v.extractLsb' 0 16 }) s
  | .srcLen => whenIdle (fun s => { s with srcLen := v.extractLsb' 0 16 }) s
  | .rngState => whenIdle (fun s => { s with rng := v.extractLsb' 0 16 }) s
  | .irqEn => { s with irqEn := v.extractLsb' 0 3 }
  | .irqStatus => { s with irqStatus := clearEvents s.irqStatus v }
  | .id | .param0 | .param1 | .param2 | .status | .errCode | .dstLen | .pad | .trail | .dictInfo
  | .lineInfo | .codeInfo => s

/-- A write to a data window (20_memory.md R57, 45_control.md R184). -/
def writeWindow (a n : Nat) (v : Word) (s : State) : State :=
  whenIdle (fun s => { s with mem := memWriteBytes s.mem a (bytesOf n v) }) s

/-- What a legal write does to the core. -/
def writeEffect (a n : Nat) (v : Word) (s : State) : State :=
  match regionAt s.cfg a with
  | .regs =>
    match regAt a with
    | some r => writeReg r v s
    | none => s
  | .keyMem | .srcMem | .dstMem => writeWindow a n v s
  | .ctMem | .reserved => s

/-- MemWrite(addr, n, v): a legal write gets a normal response even when it is ignored or dropped; any
other write is a bus error and changes nothing (20_memory.md R58). -/
def hostWrite (addr : BitVec 20) (n : Nat) (v : Word) (s : State) : State :=
  if accessLegal s.cfg true addr.toNat n then { writeEffect addr.toNat n v s with port := .writeDone }
  else { s with port := .busError }

/-- The hardware reset as one step (70_reset_and_hazards.md R230): a running command is abandoned. -/
def hardReset (s : State) : State := resetState false s

end Sys2Proof.Machine
end

