-- ==== Sys2Proof/Machine/Engine.lean ====
section
/-! DEFINITION. What a step does beside running a command: the operations of the outside world, one a step,
and the internal steps of a running command (45_control.md R181, R191; 70_reset_and_hazards.md R251). -/

namespace Sys2Proof.Machine

/-- The data of the last response, 0 if it held none. -/
def portData (s : State) : Word :=
  match s.port with
  | .readData v => v
  | .noneYet | .writeDone | .busError => 0#32

/-- A word read of a register by the host. -/
def readRegOp (r : Reg) : HostOp := .read (regOffset r) 4

/-- A word write to a register by the host. -/
def writeRegOp (r : Reg) (v : Word) : HostOp := .write (regOffset r) 4 v

/-- The byte reads of DSTMEM[0..n) (30_encoding.md R92). -/
def dstReads (n : Nat) : List HostOp := (List.range n).map (fun i => .read (BitVec.ofNat 20 (dstBase + i)) 1)

/-- WAIT (30_encoding.md R92): one read of STATUS; it stays the next operation while the bit read is 1. -/
def pollStatus (s : State) (rest : List HostOp) : State :=
  let s1 := hostRead (regOffset .status) 4 s
  if (portData s1).getLsbD 0 then s1 else { s1 with queue := rest }

/-- READDST (30_encoding.md R92): a read of DST_LEN, then reads of as many bytes as it returned. -/
def readResult (s : State) (rest : List HostOp) : State :=
  let s1 := hostRead (regOffset .dstLen) 4 s
  { s1 with queue := dstReads (portData s1).toNat ++ rest }

/-- The outside world's turn: its next operation, whole (20_memory.md R60, R63). With nothing to do the
core keeps every state (60_exceptions.md R219). -/
def hostTurn (s : State) : State :=
  match s.queue with
  | [] => s
  | .read addr n :: rest => hostRead addr n { s with queue := rest }
  | .write addr n v :: rest => hostWrite addr n v { s with queue := rest }
  | .hardReset :: rest => hardReset { s with queue := rest }
  | .wait :: rest => pollStatus s rest
  | .readDst :: rest => readResult s rest

/-- Whether the outside world's next operation is a hardware reset. -/
def resetNext (s : State) : Bool := decide (s.queue.head? = some .hardReset)

/-- The command word whose completion this step is, if it is one. A hardware reset wins over everything
(60_exceptions.md R206, 70_reset_and_hazards.md R230): it abandons a command whose completion step is due. -/
def dueCommand (s : State) : Option Word :=
  match s.engine with
  | .running w 0 => if resetNext s then none else some w
  | .idle | .running _ (_ + 1) => none

/-- One internal step of a running command (45_control.md R191). -/
def countInternalStep (s : State) : State :=
  match s.engine with
  | .running w (k + 1) => { s with engine := .running w k }
  | .idle | .running _ 0 => s

/-- A step in which no command completes: an internal step of the running command, if one runs, with which
one operation of the outside world may fall together. -/
def otherStep (s : State) : State := hostTurn (countInternalStep s)

/-- The operations of a queue from the first that is no hardware reset. -/
def withoutReset (q : List HostOp) : List HostOp := q.dropWhile (fun op => decide (op = .hardReset))

/-- The state in which a command word has been accepted and its completion is the next step (45_control.md R180
with no internal step left and no hardware reset before it). -/
def withAccepted (v : Word) (s : State) : State := acceptCommand v 0 { s with queue := withoutReset s.queue }

end Sys2Proof.Machine
end

