-- ==== Sys2Proof/Machine/Step.lean ====
section
/-! DEFINITION. One step of the machine. -/

namespace Sys2Proof.Machine

/-- One step: the completion step of the running command when it is due (the accepted word is decoded and
the command runs as one transition, 45_control.md R181), and otherwise an internal step and the outside
world's next operation (log entries 2 and 3). -/
def step (s : State) : Host.Outcome State Fault Refusal :=
  match dueCommand s with
  | some w => exec (decodeWord w) s
  | none => .next (otherStep s)

/-- The state whose next step runs the command of the word `w`: it stands as accepted, with no internal
step left and no hardware reset next (log entry 10). -/
def State.withFetchWord (s : State) (nbits w : Nat) : State :=
  withAccepted (BitVec.ofNat 32 (w % 2 ^ nbits)) s

end Sys2Proof.Machine
end

