-- ==== Sys2Proof/Machine/Script.lean ====
section
/-! DEFINITION. Host scripts (30_encoding.md R91, R92): statements, their expansions into operations of the
outside world, string escapes, and the reading of a script's text. -/

namespace Sys2Proof.Machine

/-- A statement (R91) or pseudo-statement (R92) of a host script. -/
inductive Stmt where
  /-- WR reg, v -/
  | wr (r : Reg) (v : Word)
  /-- RD reg -/
  | rd (r : Reg)
  /-- WRB addr, b -/
  | wrb (addr : BitVec 20) (b : Byte)
  /-- RDB addr -/
  | rdb (addr : BitVec 20)
  /-- INSTALL -/
  | install
  /-- PACK -/
  | pack
  /-- UNPACK -/
  | unpack
  /-- RESET -/
  | reset
  /-- WAIT -/
  | wait
  /-- LOADKEY "t" -/
  | loadKey (t : List Byte)
  /-- LOADSRC "t" -/
  | loadSrc (t : List Byte)
  /-- READDST -/
  | readDst
  /-- SEED v -/
  | seed (v : Word)
  /-- INSTALLKEY "t" -/
  | installKey (t : List Byte)
  /-- PACKSTR "t" -/
  | packStr (t : List Byte)
  /-- UNPACKSTR "t" -/
  | unpackStr (t : List Byte)
  deriving DecidableEq, Repr

/-- WRB base+i, t[i] for every i (R92). -/
def writeByteOps (base : Nat) : List Byte → List HostOp
  | [] => []
  | b :: bs => .write (BitVec.ofNat 20 base) 1 (b.setWidth 32) :: writeByteOps (base + 1) bs

/-- A command statement: the write of its word to CMD (R91). -/
def commandOp (i : Instr) : HostOp := writeRegOp .cmd (encode i)

/-- LOADKEY "t" (R92). -/
def loadKeyOps (t : List Byte) : List HostOp :=
  writeByteOps keyBase t ++ [writeRegOp .keyLen (BitVec.ofNat 32 t.length)]

/-- LOADSRC "t" (R92). -/
def loadSrcOps (t : List Byte) : List HostOp :=
  writeByteOps srcBase t ++ [writeRegOp .srcLen (BitVec.ofNat 32 t.length)]

/-- The expansion of a statement (R91, R92). -/
def expand : Stmt → List HostOp
  | .wr r v => [writeRegOp r v]
  | .rd r => [readRegOp r]
  | .wrb addr b => [.write addr 1 (b.setWidth 32)]
  | .rdb addr => [.read addr 1]
  | .install => [commandOp .install]
  | .pack => [commandOp .pack]
  | .unpack => [commandOp .unpack]
  | .reset => [commandOp .reset]
  | .wait => [.wait]
  | .loadKey t => loadKeyOps t
  | .loadSrc t => loadSrcOps t
  | .readDst => [.readDst]
  | .seed v => [writeRegOp .rngState v]
  | .installKey t => loadKeyOps t ++ [commandOp .install, .wait, readRegOp .errCode]
  | .packStr t => loadSrcOps t ++ [commandOp .pack, .wait, readRegOp .errCode, .readDst]
  | .unpackStr t => loadSrcOps t ++ [commandOp .unpack, .wait, readRegOp .errCode, .readDst]

/-- A script's encoding: the operations of its statements, in order (R92). -/
def expandScript (ss : List Stmt) : List HostOp := ss.flatMap expand

/-- The outside world runs a script from here on. -/
def withScript (ss : List Stmt) (s : State) : State := { s with queue := expandScript ss }

/-- A host program has ended when its last statement has been issued and no command runs (45_control.md
R190). -/
def programEnded (s : State) : Bool := s.queue.isEmpty && !s.busy

/-- The ASCII bytes of a name. -/
def ascii (name : List Char) : List Byte := name.map (fun c => BitVec.ofNat 8 c.toNat)

/-- A register's name (10_state.md R23). -/
def regName : Reg → List Byte
  | .id => ascii ['I', 'D']
  | .param0 => ascii ['P', 'A', 'R', 'A', 'M', '0']
  | .param1 => ascii ['P', 'A', 'R', 'A', 'M', '1']
  | .param2 => ascii ['P', 'A', 'R', 'A', 'M', '2']
  | .cmd => ascii ['C', 'M', 'D']
  | .status => ascii ['S', 'T', 'A', 'T', 'U', 'S']
  | .errCode => ascii ['E', 'R', 'R', '_', 'C', 'O', 'D', 'E']
  | .keyLen => ascii ['K', 'E', 'Y', '_', 'L', 'E', 'N']
  | .srcLen => ascii ['S', 'R', 'C', '_', 'L', 'E', 'N']
  | .dstLen => ascii ['D', 'S', 'T', '_', 'L', 'E', 'N']
  | .pad => ascii ['P', 'A', 'D']
  | .trail => ascii ['T', 'R', 'A', 'I', 'L']
  | .dictInfo => ascii ['D', 'I', 'C', 'T', '_', 'I', 'N', 'F', 'O']
  | .lineInfo => ascii ['L', 'I', 'N', 'E', '_', 'I', 'N', 'F', 'O']
  | .codeInfo => ascii ['C', 'O', 'D', 'E', '_', 'I', 'N', 'F', 'O']
  | .irqEn => ascii ['I', 'R', 'Q', '_', 'E', 'N']
  | .irqStatus => ascii ['I', 'R', 'Q', '_', 'S', 'T', 'A', 'T', 'U', 'S']
  | .rngState => ascii ['R', 'N', 'G', '_', 'S', 'T', 'A', 'T', 'E']

/-- The register block in offset order. -/
def allRegs : List Reg :=
  [.id, .param0, .param1, .param2, .cmd, .status, .errCode, .keyLen, .srcLen] ++
  [.dstLen, .pad, .trail, .dictInfo, .lineInfo, .codeInfo, .irqEn, .irqStatus, .rngState]

/-- The register of a name. -/
def regOfName (w : List Byte) : Option Reg := allRegs.find? (fun r => decide (regName r = w))

/-- A byte that the escape `\c` stands for, other than `\xHH` (R92). -/
def escapeOf (c : Byte) : Option Byte :=
  if c = 0x6E#8 then some newline
  else if c = 0x72#8 then some carriageReturn
  else if c = 0x22#8 then some 0x22#8
  else if c = 0x5C#8 then some 0x5C#8
  else none

/-- Puts a byte in front of a string read so far. -/
def consByte (b : Byte) : Option (List Byte × List Byte) → Option (List Byte × List Byte)
  | some (t, rest) => some (b :: t, rest)
  | none => none

/-- The bytes of a string after its opening quote, with its escapes (R92), and the text behind its closing
quote; `none` if an escape is none of R92's or the string does not close. -/
def readString : List Byte → Option (List Byte × List Byte)
  | [] => none
  | b :: cs =>
    if b = 0x22#8 then some ([], cs)
    else if b = 0x5C#8 then
      match cs with
      | [] => none
      | c :: hs =>
        if c = 0x78#8 then
          match hs with
          | h :: l :: rest =>
            match hexVal h, hexVal l with
            | some x, some y => consByte (x ++ y) (readString rest)
            | _, _ => none
          | _ => none
        else
          match escapeOf c with
          | some e => consByte e (readString hs)
          | none => none
    else consByte b (readString cs)

/-- A token of a script line. -/
inductive Token where
  | word (w : List Byte)
  | comma
  | text (t : List Byte)
  deriving DecidableEq, Repr

/-- Letters, digits and the underscore: the bytes of names and numbers. -/
def isWordByte (b : Byte) : Bool :=
  (decide (0x30#8 ≤ b) && decide (b ≤ 0x39#8)) || (decide (0x41#8 ≤ b) && decide (b ≤ 0x5A#8)) ||
    (decide (0x61#8 ≤ b) && decide (b ≤ 0x7A#8)) || b == 0x5F#8

/-- Puts a token in front of the tokens of the rest of the line. -/
def consToken (t : Token) : Option (List Token) → Option (List Token)
  | some ts => some (t :: ts)
  | none => none

/-- The tokens of a line up to its comment (R91: `;` starts one); `none` for a byte that belongs to no
token. `fuel` is the number of bytes that may still be read. -/
def tokensOf : Nat → List Byte → Option (List Token)
  | _, [] => some []
  | 0, _ :: _ => none
  | fuel + 1, b :: cs =>
    if b = 0x3B#8 then some []
    else if b = 0x20#8 ∨ b = 0x09#8 ∨ b = carriageReturn then tokensOf fuel cs
    else if b = 0x2C#8 then consToken .comma (tokensOf fuel cs)
    else if b = 0x22#8 then
      match readString cs with
      | some (t, rest) => consToken (.text t) (tokensOf fuel rest)
      | none => none
    else if isWordByte b then
      consToken (.word (b :: cs.takeWhile isWordByte)) (tokensOf fuel (cs.dropWhile isWordByte))
    else none

/-- A number of hex digits (00_scope.md R10). -/
def hexNumber (acc : Nat) : List Byte → Option Nat
  | [] => some acc
  | c :: cs =>
    match hexVal c with
    | some v => hexNumber (16 * acc + v.toNat) cs
    | none => none

/-- A number of decimal digits (00_scope.md R10). -/
def decimalNumber (acc : Nat) : List Byte → Option Nat
  | [] => some acc
  | c :: cs =>
    if 0x30#8 ≤ c ∧ c ≤ 0x39#8 then decimalNumber (10 * acc + (c - 0x30#8).toNat) cs else none

/-- A numeric literal (00_scope.md R10): `0x` hexadecimal, any other decimal. -/
def numberOf : List Byte → Option Nat
  | [] => none
  | 48#8 :: 120#8 :: h :: hs => hexNumber 0 (h :: hs)
  | c :: cs => decimalNumber 0 (c :: cs)

/-- The statement without operands of a mnemonic. -/
def plainStmt (m : List Byte) : Option Stmt :=
  if m = ascii ['I', 'N', 'S', 'T', 'A', 'L', 'L'] then some .install
  else if m = ascii ['P', 'A', 'C', 'K'] then some .pack
  else if m = ascii ['U', 'N', 'P', 'A', 'C', 'K'] then some .unpack
  else if m = ascii ['R', 'E', 'S', 'E', 'T'] then some .reset
  else if m = ascii ['W', 'A', 'I', 'T'] then some .wait
  else if m = ascii ['R', 'E', 'A', 'D', 'D', 'S', 'T'] then some .readDst
  else none

/-- The statement with a string operand of a mnemonic. -/
def textStmt (m : List Byte) (t : List Byte) : Option Stmt :=
  if m = ascii ['L', 'O', 'A', 'D', 'K', 'E', 'Y'] then some (.loadKey t)
  else if m = ascii ['L', 'O', 'A', 'D', 'S', 'R', 'C'] then some (.loadSrc t)
  else if m = ascii ['I', 'N', 'S', 'T', 'A', 'L', 'L', 'K', 'E', 'Y'] then some (.installKey t)
  else if m = ascii ['P', 'A', 'C', 'K', 'S', 'T', 'R'] then some (.packStr t)
  else if m = ascii ['U', 'N', 'P', 'A', 'C', 'K', 'S', 'T', 'R'] then some (.unpackStr t)
  else none

/-- The statement with one name or number of a mnemonic. -/
def wordStmt (m w : List Byte) : Option Stmt :=
  if m = ascii ['R', 'D'] then (regOfName w).map .rd
  else if m = ascii ['R', 'D', 'B'] then (numberOf w).map (fun a => .rdb (BitVec.ofNat 20 a))
  else if m = ascii ['S', 'E', 'E', 'D'] then (numberOf w).map (fun v => .seed (BitVec.ofNat 32 v))
  else none

/-- The statement with two operands of a mnemonic. -/
def pairStmt (m w x : List Byte) : Option Stmt :=
  if m = ascii ['W', 'R'] then
    match regOfName w, numberOf x with
    | some r, some v => some (.wr r (BitVec.ofNat 32 v))
    | _, _ => none
  else if m = ascii ['W', 'R', 'B'] then
    match numberOf w, numberOf x with
    | some a, some b => some (.wrb (BitVec.ofNat 20 a) (BitVec.ofNat 8 b))
    | _, _ => none
  else none

/-- The statements of a line: none for an empty line or a comment, else one; `none` for a line that is no
statement of R91 or R92. -/
def lineStmts : List Token → Option (List Stmt)
  | [] => some []
  | [.word m] => (plainStmt m).map (fun s => [s])
  | [.word m, .text t] => (textStmt m t).map (fun s => [s])
  | [.word m, .word w] => (wordStmt m w).map (fun s => [s])
  | [.word m, .word w, .comma, .word x] => (pairStmt m w x).map (fun s => [s])
  | _ => none

/-- The statements of a list of lines, in order. -/
def linesStmts : List (List Byte) → Option (List Stmt)
  | [] => some []
  | l :: ls =>
    match tokensOf l.length l, linesStmts ls with
    | some ts, some rest => (lineStmts ts).map (fun s => s ++ rest)
    | _, _ => none

/-- A script's text as statements, one per line (R91); `none` if a line is no statement. -/
def readScript (t : List Byte) : Option (List Stmt) := linesStmts (runsOf t)

end Sys2Proof.Machine
end

