-- ==== Sys2Proof/Safety.lean ====
section
/-! DEFINITION. The terms claims about the machine are stated in: frames, the agreement of the key tables, the
state invariant, and what a safe run is. -/

namespace Sys2Proof.Machine

/-- A step is safe when the machine goes on: it neither faults nor refuses (60_exceptions.md R220). -/
def StepSafe (s : State) : Prop := ∃ t, step s = .next t

/-- What no command but RESET writes: the parameters, CMD_LAST, KEY_LEN, SRC_LEN, IRQ_EN (45_control.md R188),
and what belongs to the outside world. -/
structure HostSideSame (s t : State) : Prop where
  cfg : t.cfg = s.cfg
  cmdLast : t.cmdLast = s.cmdLast
  keyLen : t.keyLen = s.keyLen
  srcLen : t.srcLen = s.srcLen
  irqEn : t.irqEn = s.irqEn
  keySrcEpoch : t.keySrcEpoch = s.keySrcEpoch
  queue : t.queue = s.queue
  port : t.port = s.port

/-- What the common completion with code `c` leaves (45_control.md R182). -/
structure CompletedWith (c : ErrCode) (s t : State) : Prop where
  errCode : t.errCode = c
  err : t.err = decide (c ≠ .ok)
  idle : t.engine = .idle
  done : t.done = true
  irqStatus : t.irqStatus = s.irqStatus ||| (if c = .ok then 0b001#3 else 0b011#3)

/-- An address of DSTMEM (20_memory.md R51, R55). -/
abbrev InDst (p : Params) (a : Nat) : Prop := dstBase ≤ a ∧ a < dstBase + p.dstMax

/-- Every byte of memory outside DSTMEM reads as before. -/
def OutsideDstSame (s t : State) : Prop := ∀ a, ¬ InDst s.cfg a → byteAt t a = byteAt s a

/-- Every byte of memory reads as before. -/
def MemorySame (s t : State) : Prop := ∀ a, byteAt t a = byteAt s a

/-- The node a path leads to from a node, if every edge exists (30_encoding.md R88). -/
def reach (pool : List Node) (n : Nat) : Bits → Option Nat
  | [] => some n
  | b :: bs =>
    match childOf (nodeAt pool n) b with
    | none => none
    | some m => reach pool m bs

/-- Node `j` comes before node `i` in the order of the minimum scan: by weight, then by index
(41_tree_builder.md R117). -/
def ScansBefore (pool : List Node) (j i : Nat) : Prop :=
  nodeWeight (nodeAt pool j) < nodeWeight (nodeAt pool i) ∨
    (nodeWeight (nodeAt pool j) = nodeWeight (nodeAt pool i) ∧ j < i)

/-- Node `j` is in the working set when node `k` is made, in a pool whose first `n` nodes are leaves: it is
older, and no node made before `k` has taken it as a child (41_tree_builder.md R118, R119). -/
def UnmergedAt (pool : List Node) (n k j : Nat) : Prop :=
  j < k ∧ ∀ m w l r, n ≤ m → m < k → nodeAt pool m = .internal w l r → j ≠ l ∧ j ≠ r

/-- The tokens are the longest matches at their cursors of the input that they and `rest` make up
(43_pack.md R143). -/
def LongestMatches (ct tokens : List CodeEntry) (rest : List Byte) : Prop :=
  ∀ before e after, tokens = before ++ e :: after →
    longestMatch ct ((e :: after).flatMap CodeEntry.expr ++ rest) = some (e.expr.length, e)

/-- What a PACK or an UNPACK that fails with code `c` after its key check leaves (43_pack.md R152, 44_unpack.md
R170): no result, the generator as it was, the key of the key check. -/
structure FailedWith (c : ErrCode) (key : KeyTables) (s t : State) : Prop where
  completed : CompletedWith c s t
  hostSide : HostSideSame s t
  key : t.key = key
  rng : t.rng = s.rng
  out : t.out = ResultRegs.absent
  outside : OutsideDstSame s t

/-- A code-table entry's code leads from ROOT to a leaf of its expression (42_code_table.md R130, R131). -/
def CodeLeadsToLeaf (k : KeyTables) (e : CodeEntry) : Prop :=
  ∃ i w dix, reach k.pool k.root e.code = some i ∧ nodeAt k.pool i = .leaf w dix ∧
    (dictAt k.dict dix).expr = e.expr

/-- The tables of a VALID key agree (41_tree_builder.md R125, 42_code_table.md R131, R133). -/
structure TablesAgree (k : KeyTables) : Prop where
  /-- ROOT is an internal node (R123). -/
  rootInternal : ∃ w l r, nodeAt k.pool k.root = .internal w l r
  /-- Every child exists and has a lower index than its parent (R125 (a)). -/
  children : ∀ i w l r, nodeAt k.pool i = .internal w l r →
    l < i ∧ r < i ∧ nodeAt k.pool l ≠ .empty ∧ nodeAt k.pool r ≠ .empty
  /-- Internal nodes are at depth 127 at most (R133). -/
  depth : ∀ path i w l r, reach k.pool k.root path = some i → nodeAt k.pool i = .internal w l r →
    path.length < maxCodeLen
  /-- Every entry's code has 1 to 128 bits and its expression 1 to 15 bytes (10_state.md R45). -/
  sizes : ∀ e ∈ k.ct, 1 ≤ e.code.length ∧ e.code.length ≤ maxCodeLen ∧ 1 ≤ e.expr.length ∧
    e.expr.length ≤ maxExprLen
  /-- Every entry's code leads to a leaf of its expression. -/
  codes : ∀ e ∈ k.ct, CodeLeadsToLeaf k e

/-- The code properties of 42_code_table.md R137. -/
structure CodesComplete (k : KeyTables) : Prop where
  /-- (a) No code is a prefix of another entry's code. -/
  prefixFree : ∀ e ∈ k.ct, ∀ f ∈ k.ct, e.code <+: f.code → e = f
  /-- (b) Every bit string has a code as a prefix or is a prefix of a code. -/
  covers : ∀ bits : Bits, ∃ e ∈ k.ct, e.code <+: bits ∨ bits <+: e.code
  /-- (c) The expressions are pairwise distinct. -/
  distinct : (k.ct.map CodeEntry.expr).Nodup
  /-- (d) Every byte value is the expression of exactly one entry. -/
  everyByte : ∀ b : Byte, ∃ e, e ∈ k.ct ∧ e.expr = [b] ∧ ∀ f ∈ k.ct, f.expr = [b] → f = e

/-- The tables stay in the capacities and index widths of the spec, whatever the key state (00_scope.md R8,
10_state.md R43 to R45). -/
structure TablesFit (p : Params) (k : KeyTables) : Prop where
  /-- DICT_N is at most DICT_CAP. -/
  dict : k.dict.length ≤ dictCap p
  /-- Every expression has 1 to 15 bytes. -/
  exprs : ∀ e ∈ k.dict, 1 ≤ e.expr.length ∧ e.expr.length ≤ maxExprLen
  /-- POOL_NEXT is at most NODE_CAP. -/
  pool : k.pool.length ≤ nodeCap p
  /-- INSET has one bit per node. -/
  inset : k.inset.length = k.pool.length
  /-- CT_COUNT is at most DICT_CAP. -/
  ct : k.ct.length ≤ dictCap p
  /-- ROOT fits in IDX_BITS. -/
  root : k.root < 2 ^ idxBits
  /-- A child index is lower than the node's own, so it fits in IDX_BITS too. -/
  children : ∀ i w l r, nodeAt k.pool i = .internal w l r → l < i ∧ r < i
  /-- A leaf names a stored entry. -/
  leaves : ∀ i w d, nodeAt k.pool i = .leaf w d → d < k.dict.length

/-- What a key that is not VALID shows: no valid code-table entry and cleared counts (10_state.md R36, R38,
40_install.md R109, R111). -/
structure NoCodes (k : KeyTables) : Prop where
  ct : k.ct = []
  leafCount : k.leafCount = 0#9
  minLen : k.minLen = 0#8
  maxLen : k.maxLen = 0#8
  infoCount : k.infoCount = 0#9

/-- The state invariant: what is so after a reset and after every step. -/
structure Inv (s : State) : Prop where
  /-- The parameters are in the ranges of 00_scope.md R7. -/
  params : paramsInRange s.cfg = true
  /-- The memory list has its canonical form. -/
  memCanonical : Memory.wf s.mem
  /-- Only bytes of the data windows are listed (20_memory.md R51). -/
  memInWindows : ∀ c ∈ s.mem, inDataWindow s.cfg c.1 = true
  /-- BUSY = 1 with DONE = 1 never occurs (45_control.md R183). -/
  lifecycle : s.busy = true → s.done = false
  /-- STATUS.ERR says whether the last code was not OK (10_state.md R29). -/
  errFlag : s.err = decide (s.errCode ≠ .ok)
  /-- The result fits in DSTMEM (43_pack.md R151, 44_unpack.md R169). -/
  dstFits : s.out.dstLen.toNat ≤ s.cfg.dstMax
  /-- TRAIL_WARN says whether bits were dropped (44_unpack.md R168). -/
  trailFlag : s.out.trailWarn = decide (s.out.trail ≠ 0#8)
  /-- At most 127 bits are dropped (10_state.md R35). -/
  trailBound : s.out.trail.toNat ≤ 127
  /-- The hidden tables fit their capacities and index widths. -/
  tablesFit : TablesFit s.cfg s.key
  /-- The tables of a VALID key agree. -/
  validTables : s.key.state = .valid → TablesAgree s.key
  /-- A key that is not VALID has no valid code-table entry. -/
  noCodes : s.key.state ≠ .valid → NoCodes s.key
  /-- STATUS.DEFAULT_KEY only with a VALID key (10_state.md R29). -/
  defaultKey : s.key.defaultKey = true → s.key.state = .valid
  /-- STATUS.LINE_INVALID says whether lines were invalid (40_install.md R103). -/
  lineInvalid : s.key.lineInvalid = decide (s.key.invalidLines ≠ 0#16)
  /-- STATUS.DICT_FULL says whether lines were full (40_install.md R103). -/
  dictFull : s.key.dictFull = decide (s.key.fullLines ≠ 0#16)
  /-- CUSTOM_COUNT is at most CUSTOM_MAX (10_state.md R36). -/
  customCount : s.key.customCount.toNat ≤ s.cfg.customMax

/-- The second invariant: the codes of a VALID key are complete. -/
def CodesInv (s : State) : Prop := s.key.state = .valid → CodesComplete s.key

end Sys2Proof.Machine
end

