-- ==== Sys2Proof/Certificates/Slice0/Obligations.lean ====
section
/-! DEFINITION. The statements for the provers: what the numbered rules of the spec say the HTB core does. -/

open Sys2Proof
open Sys2Proof.Machine

/-- Words written out from 30_encoding.md R80 and R81 decode to their commands, from the word, from its bytes
in memory order and from a table word. -/
def Obligations.CommandWordsDecodeToTheirCommands : Prop :=
  decodeWord 0x00000001#32 = .install ∧ decodeWord 0x00000002#32 = .pack ∧
  decodeWord 0x00000003#32 = .unpack ∧ decodeWord 0x0000000F#32 = .reset ∧
  decodeWord 0x00000000#32 = .illegal 0x0#4 0x0000000#28 ∧
  decodeWord 0x00000011#32 = .illegal 0x1#4 0x0000001#28 ∧
  decodeWord 0x80000002#32 = .illegal 0x2#4 0x8000000#28 ∧
  decodeBytes [0x0F#8, 0x00#8, 0x00#8, 0x00#8, 0x55#8] = .ok (.reset, [0x55#8]) ∧
  decodeBytes [0x01#8, 0x00#8, 0x00#8] = .error .shortWord ∧
  decodeTableWord 32 0x3 = some .unpack

/-- 30_encoding.md R81: exactly four words select a command. -/
def Obligations.OpcodeMapIsExact : Prop :=
  ∀ w : Word,
    (decodeWord w = .install ↔ w = 0x00000001#32) ∧ (decodeWord w = .pack ↔ w = 0x00000002#32) ∧
    (decodeWord w = .unpack ↔ w = 0x00000003#32) ∧ (decodeWord w = .reset ↔ w = 0x0000000F#32)

/-- 30_encoding.md R82: every other word is illegal, and running it completes with IllegalCommand and has no
other effect. -/
def Obligations.OtherWordsCompleteWithIllegalCommand : Prop :=
  ∀ (w : Word) (s : State),
    w ≠ 0x00000001#32 → w ≠ 0x00000002#32 → w ≠ 0x00000003#32 → w ≠ 0x0000000F#32 →
    decodeWord w = .illegal (w.extractLsb' 0 4) (w.extractLsb' 4 28) ∧
    exec (decodeWord w) s =
      .next { s with
        errCode := .illegalCommand, err := true, engine := .idle, done := true,
        irqStatus := s.irqStatus ||| 0b011#3 }

/-- Decoding gives back every well-formed instruction from its bytes, whatever follows them, and encoding
gives back every word from what it decodes to (30_encoding.md R80 to R82). -/
def Obligations.DecodeAndEncodeAgree : Prop :=
  (∀ (i : Instr) (rest : List Byte), i.wellFormed = true →
    decodeBytes (encodeBytes i ++ rest) = .ok (i, rest)) ∧
  (∀ w : Word, (decodeWord w).wellFormed = true ∧ encode (decodeWord w) = w)

/-- A step runs the accepted command when its completion step is due and no hardware reset is next (60_exceptions.md
R206), and otherwise counts an internal step and gives the outside world its turn (45_control.md R180, R181). In its
turn the next operation of the queue happens whole (20_memory.md R60): a read is the host read, a write the host
write, WAIT a read of STATUS and READDST a read of DST_LEN with the byte reads behind it (30_encoding.md R92); an
empty queue changes nothing. The stepping and the queue are the model's choice (log entries 2, 3, 10, 11 and 15). -/
def Obligations.StepRunsTheAcceptedCommand : Prop :=
  (∀ (s : State) (w : Word), s.engine = .running w 0 → s.queue.head? ≠ some .hardReset →
    step s = exec (decodeWord w) s) ∧
  (∀ (s : State) (w : Word), s.engine = .running w 0 → s.queue.head? = some .hardReset →
    step s = .next (hostTurn s)) ∧
  (∀ (s : State) (i : Instr), i.wellFormed = true →
    step (s.withFetchWord 32 (encode i).toNat) = exec i (s.withFetchWord 32 (encode i).toNat) ∧
    (s.queue.head? ≠ some .hardReset →
      s.withFetchWord 32 (encode i).toNat = acceptCommand (encode i) 0 s)) ∧
  (∀ (s : State) (w : Word) (k : Nat), s.engine = .running w (k + 1) →
    step s = .next (hostTurn { s with engine := .running w k })) ∧
  (∀ s : State, s.engine = .idle → step s = .next (hostTurn s)) ∧
  ∀ s s' : State,
    ((s.engine = .idle ∧ s' = s) ∨
      ∃ w k, s.engine = .running w (k + 1) ∧ s' = { s with engine := .running w k }) →
    (s.queue = [] → step s = .next s') ∧
    (∀ a n q, s.queue = .read a n :: q → step s = .next (hostRead a n { s' with queue := q })) ∧
    (∀ a n v q, s.queue = .write a n v :: q → step s = .next (hostWrite a n v { s' with queue := q })) ∧
    (∀ q, s.queue = .wait :: q →
      step s = .next { hostRead 0x00014#20 4 s' with queue := if s.busy then .wait :: q else q }) ∧
    (∀ q, s.queue = .readDst :: q →
      step s = .next { hostRead 0x00028#20 4 s' with
        queue := (List.range (readReg s' .dstLen).toNat).map
          (fun i => .read (BitVec.ofNat 20 (0x04000 + i)) 1) ++ q })

/-- 45_control.md R181: without a hardware reset a running command completes after its internal steps,
whatever the host does meanwhile, and reads the inputs that stood at its acceptance. That it runs as one step
after its internal steps, and the queue of host operations, are the model's choice (log entries 2 and 3). -/
def Obligations.AcceptedCommandRunsToCompletion : Prop :=
  ∀ (s : State) (w : Word) (k : Nat), s.engine = .running w k → HostOp.hardReset ∉ s.queue →
    ∃ t u : State, Sys2Proof.core.run k s = .next t ∧ t.engine = .running w 0 ∧
      t.cfg = s.cfg ∧ t.cmdLast = s.cmdLast ∧ t.keyLen = s.keyLen ∧ t.srcLen = s.srcLen ∧
      t.rng = s.rng ∧ t.mem = s.mem ∧ MemorySame s t ∧ t.key = s.key ∧ t.out = s.out ∧ t.errCode = s.errCode ∧
      step t = exec (decodeWord w) t ∧ step t = .next u ∧ u.busy = false ∧ u.done = true

/-- 70_reset_and_hazards.md R251: a host WAIT on a running command ends after its completion. WAIT as one
operation of the queue is the model's choice (log entry 15). -/
def Obligations.WaitEndsAfterCompletion : Prop :=
  ∀ (s : State) (w : Word) (k : Nat) (q : List HostOp),
    s.engine = .running w k → s.queue = .wait :: q →
    ∃ t : State, Sys2Proof.core.run (k + 2) s = .next t ∧ t.queue = q ∧ t.busy = false ∧ t.done = true

/-- 70_reset_and_hazards.md R230, 60_exceptions.md R206: a hardware reset sets the reset state in one step, wins over
everything and abandons a running command without a completion, one whose completion step is due too, and
makes every data byte a fresh draw. Which draw, and what becomes of the
model's own fields, is the model's choice (log entries 4, 5 and 11). -/
def Obligations.HardwareResetAbandonsTheCommand : Prop :=
  ∀ (s : State) (q : List HostOp), s.queue = .hardReset :: q →
    ∃ t : State, step s = .next t ∧
      t = { State.reset with
        cfg := s.cfg, queue := q, keySrcEpoch := s.draws, dstEpoch := s.draws, draws := s.draws + 1 } ∧
      t.busy = false ∧ t.done = false ∧ t.irqStatus = 0#3 ∧ irq t = false ∧
      ∀ a, byteAt t a = Config.freeByte s.draws a

/-- The core has no stuck state, and no step writes the parameters or the registers that report them
(60_exceptions.md R220 (c); 10_state.md R22, R24 to R27). -/
def Obligations.EveryStepGoesOnAndKeepsTheParameters : Prop :=
  ∀ s : State, StepSafe s ∧
    ∀ t : State, step s = .next t → t.cfg = s.cfg ∧ regValue t .id = 0x48554637#32 ∧
      regValue t .param0 = regValue s .param0 ∧ regValue t .param1 = regValue s .param1 ∧
      regValue t .param2 = regValue s .param2

/-- 45_control.md R180: acceptance, the drop while BUSY, and the bus errors of a CMD write. That the acceptance
draws the number of internal steps is the model's choice (log entries 3 and 4). -/
def Obligations.CommandWriteRule : Prop :=
  (∀ (s : State) (v : Word), s.busy = false →
    ∃ n, hostWrite 0x00010#20 4 v s =
      { s with
        cmdLast := v.extractLsb' 0 4, done := false, engine := .running v n, draws := s.draws + 1,
        port := .writeDone }) ∧
  (∀ (s : State) (v : Word), s.busy = true →
    hostWrite 0x00010#20 4 v s =
      { s with irqStatus := s.irqStatus ||| 0b100#3, port := .writeDone }) ∧
  (∀ (s : State) (a : BitVec 20) (n : Nat) (v : Word),
    0x10 ≤ a.toNat → a.toNat < 0x14 → ¬ (a = 0x00010#20 ∧ n = 4) →
    hostWrite a n v s = { s with port := .busError })

/-- 45_control.md R184: which writes are dropped while BUSY and which are not. -/
def Obligations.WritesWhileBusyAreDropped : Prop :=
  (∀ (s : State) (a : BitVec 20) (n : Nat) (v : Word), s.busy = true →
    accessLegal s.cfg true a.toNat n = true →
    (a.toNat ∈ [0x010, 0x020, 0x024, 0x048] ∨ inDataWindow s.cfg a.toNat = true) →
    hostWrite a n v s = { s with irqStatus := s.irqStatus ||| 0b100#3, port := .writeDone }) ∧
  (∀ (s : State) (v : Word),
    hostWrite 0x00040#20 4 v s = { s with irqEn := v.extractLsb' 0 3, port := .writeDone }) ∧
  (∀ (s : State) (v : Word),
    hostWrite 0x00044#20 4 v s =
      { s with irqStatus := s.irqStatus &&& ~~~(v.extractLsb' 0 3), port := .writeDone }) ∧
  (∀ (s : State) (a : BitVec 20) (v : Word),
    a.toNat ∈ [0x000, 0x004, 0x008, 0x00C, 0x014, 0x018, 0x028, 0x02C, 0x030, 0x034, 0x038, 0x03C] →
    hostWrite a 4 v s = { s with port := .writeDone }) ∧
  (∀ (s : State) (a : BitVec 20) (n : Nat) (v : Word), accessLegal s.cfg true a.toNat n = false →
    hostWrite a n v s = { s with port := .busError })

/-- Idle writes to KEY_LEN, SRC_LEN, RNG_STATE and the data windows take effect, little-endian, and change
nothing else (10_state.md R31, R32, R41; 20_memory.md R57). -/
def Obligations.WritesWhileIdleTakeEffect : Prop :=
  (∀ (s : State) (v : Word), s.busy = false →
    hostWrite 0x00020#20 4 v s = { s with keyLen := v.extractLsb' 0 16, port := .writeDone } ∧
    hostWrite 0x00024#20 4 v s = { s with srcLen := v.extractLsb' 0 16, port := .writeDone } ∧
    hostWrite 0x00048#20 4 v s = { s with rng := v.extractLsb' 0 16, port := .writeDone }) ∧
  (∀ (s : State) (a : BitVec 20) (n : Nat) (v : Word), s.busy = false →
    inDataWindow s.cfg a.toNat = true → accessLegal s.cfg true a.toNat n = true →
    ∃ m, hostWrite a n v s = { s with mem := m, port := .writeDone } ∧
      ∀ x, byteAt { s with mem := m, port := .writeDone } x =
        if a.toNat ≤ x ∧ x < a.toNat + n then v.extractLsb' (8 * (x - a.toNat)) 8 else byteAt s x)

/-- An idle read of a data window after a write of the same size returns the low bytes of the value
(20_memory.md R57). -/
def Obligations.WindowReadReturnsTheWrite : Prop :=
  ∀ (s : State) (a : BitVec 20) (n : Nat) (v : Word), s.busy = false →
    inDataWindow s.cfg a.toNat = true → accessLegal s.cfg true a.toNat n = true →
    (hostRead a n (hostWrite a n v s)).port =
      .readData (BitVec.ofNat 32 (v.toNat % 2 ^ (8 * n)))

/-- Exactly the accesses of the address map, of legal widths and alignments, are not bus errors, and a bus
error changes nothing but the response (20_memory.md R51, R56, R58; the size used bounds the whole access,
log entry 9). -/
def Obligations.LegalAccessesAreTheMaps : Prop :=
  (∀ (p : Params) (isWrite : Bool) (a n : Nat), paramsInRange p = true →
    (accessLegal p isWrite a n = true ↔
      (n = 1 ∨ n = 2 ∨ n = 4) ∧ a % n = 0 ∧
      ((n = 4 ∧ a ∈ [0x000, 0x004, 0x008, 0x00C, 0x010, 0x014, 0x018, 0x020, 0x024, 0x028, 0x02C, 0x030,
          0x034, 0x038, 0x03C, 0x040, 0x044, 0x048]) ∨
        (0x01000 ≤ a ∧ a + n ≤ 0x01000 + p.keyMax) ∨
        (0x02000 ≤ a ∧ a + n ≤ 0x02000 + p.srcMax) ∨
        (0x04000 ≤ a ∧ a + n ≤ 0x04000 + p.dstMax) ∨
        (isWrite = false ∧ 0x08000 ≤ a ∧ a + n ≤ 0x08000 + 64 * (p.customMax + 256))))) ∧
  (∀ (s : State) (a : BitVec 20) (n : Nat) (v : Word),
    (accessLegal s.cfg false a.toNat n = false → hostRead a n s = { s with port := .busError }) ∧
    (accessLegal s.cfg true a.toNat n = false → hostWrite a n v s = { s with port := .busError }))

/-- 20_memory.md R59: a read changes nothing but the response (and, while BUSY, the count of the draws used),
and an idle read repeated gives the same. The count of the draws is the model's own (log entry 17). -/
def Obligations.ReadsHaveNoSideEffect : Prop :=
  ∀ (s : State) (a : BitVec 20) (n : Nat),
    ∃ r d, hostRead a n s = { s with port := r, draws := d } ∧
      (s.busy = false → d = s.draws ∧ hostRead a n (hostRead a n s) = hostRead a n s)

/-- What a host read answers: the register of the map (10_state.md R23) or the little-endian word of the window's
bytes (20_memory.md R53, R57); which reads are exact while BUSY, and that idle reads are exact (10_state.md
R48). -/
def Obligations.BusyReadsAreExactWhereTheHandshakeNeedsIt : Prop :=
  (∀ (s : State) (r : Reg), s.busy = false → readReg s r = regValue s r) ∧
  (∀ (s : State) (r : Reg),
    r ∈ [Reg.id, .param0, .param1, .param2, .cmd, .irqEn, .irqStatus, .keyLen, .srcLen] →
    readReg s r = regValue s r) ∧
  (∀ s : State, (readReg s .status).getLsbD 0 = s.busy ∧ (readReg s .status).getLsbD 1 = s.done) ∧
  (∀ (s : State) (a n : Nat), (regionAt s.cfg a = .keyMem ∨ regionAt s.cfg a = .srcMem) →
    readValue s a n = wordOf (bytesAt s a n)) ∧
  (∀ (s : State) (a : BitVec 20) (r : Reg),
    (a, r) ∈ [(0x000#20, Reg.id), (0x004#20, .param0), (0x008#20, .param1), (0x00C#20, .param2), (0x010#20, .cmd),
      (0x014#20, .status), (0x018#20, .errCode), (0x020#20, .keyLen), (0x024#20, .srcLen), (0x028#20, .dstLen),
      (0x02C#20, .pad), (0x030#20, .trail), (0x034#20, .dictInfo), (0x038#20, .lineInfo), (0x03C#20, .codeInfo),
      (0x040#20, .irqEn), (0x044#20, .irqStatus), (0x048#20, .rngState)] →
    regOffset r = a ∧ (hostRead a 4 s).port = .readData (readReg s r)) ∧
  (∀ (s : State) (a : BitVec 20) (n : Nat), accessLegal s.cfg false a.toNat n = true →
    (regionAt s.cfg a.toNat = .keyMem ∨ regionAt s.cfg a.toNat = .srcMem ∨
      (s.busy = false ∧ regionAt s.cfg a.toNat = .dstMem)) →
    ∃ v, (hostRead a n s).port = .readData v ∧
      ∀ i, i < 4 → v.extractLsb' (8 * i) 8 = if i < n then byteAt s (a.toNat + i) else 0#8) ∧
  (∀ (s : State) (a : BitVec 20) (n : Nat), accessLegal s.cfg false a.toNat n = true →
    s.busy = false → regionAt s.cfg a.toNat = .ctMem →
    ∃ v, (hostRead a n s).port = .readData v ∧
      ∀ i, i < 4 → v.extractLsb' (8 * i) 8 = if i < n then ctByte s (a.toNat + i) else 0#8)

/-- The fields of every register stand at their bits with their encodings (KEY_STATE of 10_state.md R29, the
numbers of the error codes of 60_exceptions.md R200), and the reserved bits read 0 (10_state.md R24 to R41). -/
def Obligations.RegisterFieldsStandAtTheirBits : Prop :=
  ∀ s : State,
    (let w := regValue s .status
     w.getLsbD 0 = s.busy ∧ w.getLsbD 1 = s.done ∧ w.getLsbD 2 = s.err ∧ w.getLsbD 3 = false ∧
     w.extractLsb' 4 2 =
        (match s.key.state with
         | .none => 0#2
         | .valid => 1#2
         | .failed => 2#2) ∧ w.getLsbD 6 = s.key.defaultKey ∧
     w.getLsbD 7 = false ∧ w.getLsbD 8 = s.key.lineInvalid ∧ w.getLsbD 9 = s.key.dictFull ∧
     w.getLsbD 10 = s.out.trailWarn ∧ w.extractLsb' 11 21 = 0#21) ∧
    (let w := regValue s .dictInfo
     w.extractLsb' 0 8 = s.key.customCount ∧ w.extractLsb' 8 8 = 0#8 ∧
     w.extractLsb' 16 9 = s.key.leafCount ∧ w.extractLsb' 25 7 = 0#7) ∧
    (let w := regValue s .lineInfo
     w.extractLsb' 0 16 = s.key.invalidLines ∧ w.extractLsb' 16 16 = s.key.fullLines) ∧
    (let w := regValue s .codeInfo
     w.extractLsb' 0 8 = s.key.minLen ∧ w.extractLsb' 8 8 = s.key.maxLen ∧
     w.extractLsb' 16 9 = s.key.infoCount ∧ w.extractLsb' 25 7 = 0#7) ∧
    (let w := regValue s .param0
     w.extractLsb' 0 8 = BitVec.ofNat 8 s.cfg.customMax ∧ w.extractLsb' 8 8 = 15#8 ∧
     w.extractLsb' 16 8 = 128#8 ∧ w.extractLsb' 24 8 = 0#8) ∧
    (let w := regValue s .param2
     w.extractLsb' 0 16 = BitVec.ofNat 16 s.cfg.srcMax ∧
     w.extractLsb' 16 16 = BitVec.ofNat 16 s.cfg.dstMax) ∧
    regValue s .errCode =
      (match s.errCode with
       | .ok => 0#32
       | .invalidExpressionLine => 1#32
       | .dictionaryFull => 2#32
       | .treeBuildFailure => 3#32
       | .codeTooLong => 4#32
       | .traversalFailure => 5#32
       | .encodingFailure => 6#32
       | .allocationFailure => 7#32
       | .formatError => 8#32
       | .checksumError => 9#32
       | .notReady => 10#32
       | .capacityError => 11#32
       | .illegalCommand => 12#32) ∧
    regValue s .id = 0x48554637#32 ∧
    (let w := regValue s .param1
     w.extractLsb' 0 16 = BitVec.ofNat 16 s.cfg.keyMax ∧ w.extractLsb' 16 16 = 0#16) ∧
    (let w := regValue s .cmd
     w.extractLsb' 0 4 = s.cmdLast ∧ w.extractLsb' 4 28 = 0#28) ∧
    (let w := regValue s .keyLen
     w.extractLsb' 0 16 = s.keyLen ∧ w.extractLsb' 16 16 = 0#16) ∧
    (let w := regValue s .srcLen
     w.extractLsb' 0 16 = s.srcLen ∧ w.extractLsb' 16 16 = 0#16) ∧
    (let w := regValue s .dstLen
     w.extractLsb' 0 16 = s.out.dstLen ∧ w.extractLsb' 16 16 = 0#16) ∧
    (let w := regValue s .pad
     w.extractLsb' 0 3 = s.out.pad ∧ w.extractLsb' 3 29 = 0#29) ∧
    (let w := regValue s .trail
     w.extractLsb' 0 8 = s.out.trail ∧ w.extractLsb' 8 24 = 0#24) ∧
    (let w := regValue s .irqEn
     w.extractLsb' 0 3 = s.irqEn ∧ w.extractLsb' 3 29 = 0#29) ∧
    (let w := regValue s .irqStatus
     w.extractLsb' 0 3 = s.irqStatus ∧ w.extractLsb' 3 29 = 0#29) ∧
    (let w := regValue s .rngState
     w.extractLsb' 0 16 = s.rng ∧ w.extractLsb' 16 16 = 0#16)

/-- The values after a hardware reset (70_reset_and_hazards.md R231), in the reference configuration. That
reset is in that configuration, and empty tables where the spec has draws, are the model's choice (log entries
1 and 7). -/
def Obligations.ResetLeavesTheResetValues : Prop :=
  (∀ r : Reg, regValue State.reset r =
    match r with
    | .id => 0x48554637#32
    | .param0 => 0x00800F14#32
    | .param1 => 0x00001000#32
    | .param2 => 0x40002000#32
    | .rngState => 0x00000001#32
    | .cmd | .status | .errCode | .keyLen | .srcLen | .dstLen | .pad | .trail | .dictInfo | .lineInfo
    | .codeInfo | .irqEn | .irqStatus => 0#32) ∧
  State.reset.key.state = .none ∧ State.reset.dictN = 0 ∧ State.reset.poolNext = 0 ∧
  State.reset.ctCount = 0 ∧ State.reset.key.root = 0 ∧
  (∀ i, nodeAt State.reset.key.pool i = .empty) ∧ (∀ b ∈ State.reset.key.inset, b = false) ∧
  (∀ a, ctByte State.reset a = 0#8) ∧ irq State.reset = false

/-- 45_control.md R182: every accepted command, whatever its outcome, ends in the completion with its code;
RESET's completion follows the clearing of the older events (R186). -/
def Obligations.EveryCommandEndsInTheCompletion : Prop :=
  ∀ (i : Instr) (s : State), ∃ (t : State) (c : ErrCode), exec i s = .next t ∧
    t.errCode = c ∧ t.err = decide (c ≠ .ok) ∧ t.busy = false ∧ t.done = true ∧
    t.irqStatus =
      (if i = .reset then 0#3 else s.irqStatus) ||| (if c = .ok then 0b001#3 else 0b011#3)

/-- The interrupt output is the OR of the enabled events, and low after a reset (60_exceptions.md R215). -/
def Obligations.IrqIsTheOrOfEnabledEvents : Prop :=
  (∀ s : State, irq s = true ↔
    ∃ i, i < 3 ∧ s.irqStatus.getLsbD i = true ∧ s.irqEn.getLsbD i = true) ∧
  (∀ s : State, s.irqEn = 0#3 → irq s = false) ∧ irq State.reset = false

/-- 45_control.md R186: RESET returns every register and table to its reset value, keeps the three memories
and completes with OK. The model's own fields go on (log entries 2, 4 and 5). -/
def Obligations.ResetCommandReturnsToTheResetState : Prop :=
  ∀ s : State, ∃ t : State, exec .reset s = .next t ∧
    t = { State.reset with
      cfg := s.cfg, mem := s.mem, keySrcEpoch := s.keySrcEpoch, dstEpoch := s.dstEpoch,
      draws := s.draws, queue := s.queue, port := s.port, cmdLast := 0xF#4, done := true,
      irqStatus := 0b001#3 } ∧
    MemorySame s t ∧ t.key.state = .none ∧ irq t = false ∧ regValue t .cmd = 0x0000000F#32 ∧
    regValue t .status = 0x00000002#32

/-- INSTALL with KEY_LEN > KEY_MAX changes nothing but the completion's fields (40_install.md R100, R101). -/
def Obligations.InstallOverKeyMaxKeepsTheOldKey : Prop :=
  ∀ s : State, s.cfg.keyMax < s.keyLen.toNat →
    exec .install s =
      .next { s with
        errCode := .capacityError, err := true, engine := .idle, done := true,
        irqStatus := s.irqStatus ||| 0b011#3 }

/-- INSTALL within KEY_MAX completes: the key tables of an install of the key text, its line counts, its two
outcomes with their codes, and its frame (40_install.md R100, R103, R109, R110; 45_control.md R188). The key text is
the KEY_LEN bytes from 0x01000 on (20_memory.md R52, R61). -/
def Obligations.InstallCompletesWithItsKeyAndFrame : Prop :=
  (∀ s : State, keyText s = (List.range s.keyLen.toNat).map (fun i => byteAt s (0x01000 + i))) ∧
  ∀ s : State, s.keyLen.toNat ≤ s.cfg.keyMax →
    let lines := splitLines (keyText s)
    let valid := (lines.filter (fun l => (keyLine l).isSome)).length
    let invalid := (lines.filter (fun l => (keyLine l).isNone)).length
    ∃ t : State, exec .install s = .next t ∧ CompletedWith t.errCode s t ∧ HostSideSame s t ∧
      t.key = (installKey s.cfg (keyText s) false s.key).1 ∧
      t.errCode = reportedCode (installKey s.cfg (keyText s) false s.key).2 ∧
      t.out = s.out ∧ t.rng = s.rng ∧ t.mem = s.mem ∧ t.dstEpoch = s.dstEpoch ∧ MemorySame s t ∧
      t.key.customCount = BitVec.ofNat 8 (min valid s.cfg.customMax) ∧
      t.key.invalidLines = BitVec.ofNat 16 (min invalid 0xFFFF) ∧
      t.key.fullLines = BitVec.ofNat 16 (min (valid - s.cfg.customMax) 0xFFFF) ∧
      t.key.lineInvalid = decide (0 < invalid) ∧
      t.key.dictFull = decide (s.cfg.customMax < valid) ∧
      t.key.defaultKey = false ∧
      ((t.key.state = .valid ∧
          t.errCode =
            if s.cfg.customMax < valid then .dictionaryFull
            else if 0 < invalid then .invalidExpressionLine else .ok) ∨
        (t.key.state = .failed ∧ NoCodes t.key ∧
          t.errCode ∈ [ErrCode.treeBuildFailure, .codeTooLong, .traversalFailure, .allocationFailure]))

/-- Of the fatal install errors only CodeTooLong can occur, for an explicit and an implicit install
(40_install.md R113), and it occurs exactly when the built tree has an internal node at depth 128
(42_code_table.md R133). The tables then hold the dictionary of the key text and its tree (R103, R115). -/
def Obligations.InstallFailsOnlyByCodeTooLong : Prop :=
  ∀ (p : Params) (t : List Byte) (implicit : Bool) (k : KeyTables),
    (((installKey p t implicit k).1.state = .valid ∧
      (installKey p t implicit k).2 =
        .ok (installCode (dictBuild p t).invalidLines (dictBuild p t).fullLines)) ∨
    ((installKey p t implicit k).1.state = .failed ∧
      (installKey p t implicit k).2 = .error .codeTooLong)) ∧
  (let tree := (treeBuild (nodeCap p) (dictBuild p t).dict k.root).1
   ((installKey p t implicit k).2 = .error .codeTooLong ↔
      ∃ path i w l r, path.length = 128 ∧ reach tree.pool tree.root path = some i ∧
        nodeAt tree.pool i = .internal w l r) ∧
    (installKey p t implicit k).1.dict = (dictBuild p t).dict ∧
    (installKey p t implicit k).1.pool = tree.pool ∧ (installKey p t implicit k).1.inset = tree.inset ∧
    (installKey p t implicit k).1.root = tree.root)

/-- After a successful install the dictionary, the tree and the code table agree (41_tree_builder.md R125,
42_code_table.md R130, R131, R133). -/
def Obligations.InstalledTablesAgree : Prop :=
  ∀ (p : Params) (t : List Byte) (implicit : Bool) (k : KeyTables),
    (installKey p t implicit k).1.state = .valid → TablesAgree (installKey p t implicit k).1

/-- 42_code_table.md R137: the codes of a successful install are prefix-free and complete, and the
expressions distinct with every byte value among them. -/
def Obligations.InstalledCodesAreComplete : Prop :=
  ∀ (p : Params) (t : List Byte) (implicit : Bool) (k : KeyTables),
    (installKey p t implicit k).1.state = .valid → CodesComplete (installKey p t implicit k).1

/-- The traversal records each leaf exactly once, and LEAF_COUNT and CODE_INFO.CT_COUNT are their number
(42_code_table.md R131, R135; 40_install.md R109). -/
def Obligations.CodeTableHoldsEachLeafOnce : Prop :=
  ∀ (p : Params) (t : List Byte) (implicit : Bool) (k : KeyTables),
    (installKey p t implicit k).1.state = .valid →
    let k' := (installKey p t implicit k).1
    let active := (dictBuild p t).dict.filter (fun e => e.active)
    (k'.ct.map CodeEntry.expr).Perm (active.map DictEntry.expr) ∧ k'.ct.length = active.length ∧
      k'.leafCount = BitVec.ofNat 9 active.length ∧ k'.infoCount = BitVec.ofNat 9 active.length

/-- CODE_INFO holds the shortest and the longest code length (42_code_table.md R135). The code table is in the order
of the leaves from left to right (R131, R132; 30_encoding.md R90): the first and last entries have the all-zero and
the all-one code, and the codes of two entries first differ at a bit that is 0 in the earlier one. -/
def Obligations.CodeInfoHoldsTheCodeLengths : Prop :=
  ∀ (p : Params) (t : List Byte) (implicit : Bool) (k : KeyTables),
    (installKey p t implicit k).1.state = .valid →
    let k' := (installKey p t implicit k).1
    (∀ e ∈ k'.ct, k'.minLen.toNat ≤ e.code.length ∧ e.code.length ≤ k'.maxLen.toNat) ∧
      (∃ e ∈ k'.ct, e.code.length = k'.minLen.toNat) ∧ (∃ e ∈ k'.ct, e.code.length = k'.maxLen.toNat) ∧
      (∃ e, k'.ct.head? = some e ∧ ∀ b ∈ e.code, b = false) ∧
      (∃ e, k'.ct.getLast? = some e ∧ ∀ b ∈ e.code, b = true) ∧
      (∀ (i j : Nat) (e f : CodeEntry), i < j → k'.ct[i]? = some e → k'.ct[j]? = some f →
        ∃ pre x y, e.code = pre ++ false :: x ∧ f.code = pre ++ true :: y)

/-- 30_encoding.md R84: the runs between newlines are the text, a last empty run is no line, one carriage
return at a line's end is removed. -/
def Obligations.SplitLinesCutsAtNewlines : Prop :=
  newline = 0x0A#8 ∧ carriageReturn = 0x0D#8 ∧
  (∀ t : List Byte, [newline].intercalate (runsOf t) = t ∧ ∀ r ∈ runsOf t, newline ∉ r) ∧
  splitLines [] = [] ∧
  (∀ t : List Byte, splitLines (t ++ [newline]) = (runsOf t).map stripCr) ∧
  (∀ (t : List Byte) (b : Byte), b ≠ newline → splitLines (t ++ [b]) = (runsOf (t ++ [b])).map stripCr) ∧
  (∀ r : List Byte, stripCr (r ++ [carriageReturn]) = r) ∧
  (∀ r : List Byte, r.getLast? ≠ some carriageReturn → stripCr r = r)

/-- 30_encoding.md R85: which lines are valid, and their fields, read with the hex digits of 00_scope.md R15: both
cases are read, lowercase alone is written. -/
def Obligations.KeyLineFieldsAreTheHexPairs : Prop :=
  (∀ c : Byte,
    (0x30 ≤ c.toNat → c.toNat ≤ 0x39 → hexVal c = some (BitVec.ofNat 4 (c.toNat - 0x30))) ∧
    (0x41 ≤ c.toNat → c.toNat ≤ 0x46 → hexVal c = some (BitVec.ofNat 4 (c.toNat - 0x41 + 10))) ∧
    (0x61 ≤ c.toNat → c.toNat ≤ 0x66 → hexVal c = some (BitVec.ofNat 4 (c.toNat - 0x61 + 10))) ∧
    (¬ (0x30 ≤ c.toNat ∧ c.toNat ≤ 0x39) → ¬ (0x41 ≤ c.toNat ∧ c.toNat ≤ 0x46) →
      ¬ (0x61 ≤ c.toNat ∧ c.toNat ≤ 0x66) → hexVal c = none)) ∧
  (∀ v : Nibble,
    (hexChar v).toNat = if v.toNat < 10 then 0x30 + v.toNat else 0x61 + v.toNat - 10) ∧
  ∀ text : List Byte,
    ((keyLine text).isSome = true ↔ 4 ≤ text.length ∧ ∀ c ∈ text, (hexVal c).isSome = true) ∧
    ∀ l, keyLine text = some l →
      let digit := fun i => ((text[i]?.bind hexVal).getD 0#4).toNat
      l.weight.toNat = 16 * digit 0 + digit 1 ∧
      l.expr.length = min ((text.length - 2) / 2) 15 ∧ 1 ≤ l.expr.length ∧
      (∀ k, k < l.expr.length →
        (l.expr[k]?.getD 0#8).toNat = 16 * digit (2 + 2 * k) + digit (3 + 2 * k)) ∧
      (∀ (p : Params) (b : DictBuild), b.dict.length ≠ p.customMax →
        ∃ e, (addLine p b text).dict = b.dict ++ [e] ∧ e.weight.toNat = l.weight.toNat ∧ e.expr = l.expr)

/-- The entries before CUSTOM_COUNT of the built dictionary are the first CUSTOM_MAX valid lines in order, and nothing
of the line stage is changed behind it; the rest are counted, saturating (40_install.md R102, R103, R105). -/
def Obligations.CustomEntriesAreTheFirstValidLines : Prop :=
  ∀ (p : Params) (t : List Byte),
    let valid := (splitLines t).filterMap keyLine
    let d := dictBuild p t
    customCountOf p t = min valid.length p.customMax ∧
      (d.dict.take (customCountOf p t)).map (fun e => (e.weight, e.expr, e.custom)) =
        (valid.take p.customMax).map (fun l => (l.weight.setWidth 32, l.expr, true)) ∧
      d.dict.take (customCountOf p t) = (addLines p t).dict ∧
      d.invalidLines = min ((splitLines t).length - valid.length) 0xFFFF ∧
      d.fullLines = min (valid.length - p.customMax) 0xFFFF

/-- After every dictionary build each byte value is the expression of exactly one active entry, no two active
entries share an expression, and the first entry of an expression is the active one (40_install.md R104). -/
def Obligations.OnlyTheFirstOfEqualExpressionsIsActive : Prop :=
  ∀ (p : Params) (t : List Byte),
    let d := (dictBuild p t).dict
    (∀ b : Byte, (d.filter (fun e => e.active && decide (e.expr = [b]))).length = 1) ∧
      ((d.filter (fun e => e.active)).map DictEntry.expr).Nodup ∧
      ∀ (j : Nat) (e : DictEntry), d[j]? = some e →
        (e.active = true ↔ ∀ (i : Nat) (f : DictEntry), i < j → d[i]? = some f → f.expr ≠ e.expr)

/-- The 256 byte entries follow the custom entries in ascending order with the weights of the first matching
row (40_install.md R106, R107, R108). -/
def Obligations.ByteEntriesFollowWithTheirWeights : Prop :=
  ∀ (p : Params) (t : List Byte),
    let d := (dictBuild p t).dict
    let n := customCountOf p t
    n ≤ p.customMax ∧ d.length = n + 256 ∧
      ∀ b : Byte, ∃ e, d[n + b.toNat]? = some e ∧ e.expr = [b] ∧ e.custom = false ∧
        e.weight =
          if b ∈ [0x20#8, 0x22#8, 0x3A#8, 0x2E#8, 0x2C#8, 0x0A#8] ∨ b ∈ p.freqExtra then 10000#32
          else if 0x61 ≤ b.toNat ∧ b.toNat ≤ 0x7A then 1000#32
          else if 0x20 ≤ b.toNat ∧ b.toNat ≤ 0x7E then 200#32
          else 1#32

/-- 41_tree_builder.md R117: the scan returns the lowest index of the smallest weight in the working set, and
none exactly when the working set is empty. -/
def Obligations.ScanMinIsTheLowestIndexOfTheMinimum : Prop :=
  ∀ (pool : List Node) (inset : Bits),
    (∀ a, scanMin pool inset = some a ↔
      a < pool.length ∧ inset[a]? = some true ∧
      ∀ j, j < pool.length → inset[j]? = some true →
        nodeWeight (nodeAt pool a) ≤ nodeWeight (nodeAt pool j) ∧
        (j < a → nodeWeight (nodeAt pool a) < nodeWeight (nodeAt pool j))) ∧
    (scanMin pool inset = none ↔ ∀ j, j < pool.length → inset[j]? ≠ some true)

/-- With at least two leaves and room for them the tree builder makes N - 1 merges, each of the first and the
second minimum of the working set by weight and then index, the first on the left (41_tree_builder.md R117, R118),
appends every merged node behind its children with the sum of their weights, leaves the leaves in place and the
working set empty, and makes the last node the root (41_tree_builder.md R116, R119, R121, R125). -/
def Obligations.TreeBuildMergesAllLeaves : Prop :=
  ∀ (cap : Nat) (dict : List DictEntry) (root : Nat),
    let n := (dict.filter (fun e => e.active)).length
    2 ≤ n → 2 * n - 1 ≤ cap →
    ∃ t : TreeState, treeBuild cap dict root = (t, none) ∧ t.pool.length = 2 * n - 1 ∧
      t.root = 2 * n - 2 ∧ t.pool.take n = leavesFrom 0 dict ∧ (∀ b ∈ t.inset, b = false) ∧
      ∀ k, n ≤ k → k < 2 * n - 1 → ∃ l r, l < k ∧ r < k ∧ l ≠ r ∧
        nodeAt t.pool k =
          .internal (nodeWeight (nodeAt t.pool l) + nodeWeight (nodeAt t.pool r)) l r ∧
        UnmergedAt t.pool n k l ∧ UnmergedAt t.pool n k r ∧
        (∀ j, UnmergedAt t.pool n k j → j ≠ l → ScansBefore t.pool l j) ∧
        (∀ j, UnmergedAt t.pool n k j → j ≠ l → j ≠ r → ScansBefore t.pool r j)

/-- The leaves are the active entries in dictionary order with their weights and indices
(41_tree_builder.md R116). -/
def Obligations.LeavesAreTheActiveEntries : Prop :=
  ∀ dict : List DictEntry,
    (leavesFrom 0 dict).length = (dict.filter (fun e => e.active)).length ∧
    (∀ j w i, (leavesFrom 0 dict)[j]? = some (.leaf w i) →
      ∃ e, dict[i]? = some e ∧ e.active = true ∧ e.weight = w ∧
        j = ((dict.take i).filter (fun e => e.active)).length) ∧
    (∀ i e, dict[i]? = some e → e.active = true →
      (leavesFrom 0 dict)[((dict.take i).filter (fun e => e.active)).length]? = some (.leaf e.weight i))

/-- No leaf and one leaf are TreeBuildFailure; a pool too small for the merges is AllocationFailure
(41_tree_builder.md R122, R123, R124). -/
def Obligations.TreeBuildErrors : Prop :=
  ∀ (cap : Nat) (dict : List DictEntry) (root : Nat),
    let n := (dict.filter (fun e => e.active)).length
    (n ≤ 1 → (treeBuild cap dict root).2 = some .treeBuildFailure) ∧
    (2 ≤ n → n ≤ cap → cap < 2 * n - 1 → (treeBuild cap dict root).2 = some .allocationFailure)

/-- The root's weight is the exact sum of the leaves' weights, at most 255 * CUSTOM_MAX + 10000 * 256, so no
sum wraps (41_tree_builder.md R120). -/
def Obligations.TreeWeightsNeverWrap : Prop :=
  ∀ (p : Params) (t : List Byte) (root : Nat), paramsInRange p = true →
    let d := (dictBuild p t).dict
    let tree := (treeBuild (nodeCap p) d root).1
    (nodeWeight (nodeAt tree.pool tree.root)).toNat =
        ((d.filter (fun e => e.active)).map (fun e => e.weight.toNat)).sum ∧
      ((d.filter (fun e => e.active)).map (fun e => e.weight.toNat)).sum ≤
        255 * p.customMax + 10000 * 256 ∧
      ∀ k l r w, nodeAt tree.pool k = .internal w l r →
        w.toNat = (nodeWeight (nodeAt tree.pool l)).toNat + (nodeWeight (nodeAt tree.pool r)).toNat

/-- CTMEM shows each valid entry in the layout of 30_encoding.md R89 and zero bytes for every other entry. -/
def Obligations.CodeTableWindowLayout : Prop :=
  ∀ (s : State) (j : Nat),
    (s.key.ct.length ≤ j → ∀ off, off < 64 → ctByte s (0x08000 + 64 * j + off) = 0#8) ∧
    (∀ e, s.key.ct[j]? = some e → e.expr.length ≤ 15 → e.code.length ≤ 128 →
      let byte := fun off => ctByte s (0x08000 + 64 * j + off)
      byte 0x00 = BitVec.ofNat 8 e.expr.length ∧ byte 0x01 = BitVec.ofNat 8 e.code.length ∧
      byte 0x02 = 0#8 ∧ byte 0x03 = 0x80#8 ∧ (∀ k, 0x04 ≤ k → k < 0x10 → byte k = 0#8) ∧
      (∀ k, k < 15 → byte (0x10 + k) = e.expr[k]?.getD 0#8) ∧ byte 0x1F = 0#8 ∧
      (∀ i b, i < 16 → b < 8 → (byte (0x20 + i)).getLsbD (7 - b) = e.code[8 * i + b]?.getD false) ∧
      (∀ k, 0x30 ≤ k → k < 0x40 → byte k = 0#8))

/-- 45_control.md R185: the key check of PACK and UNPACK, first as an operation and then in the two commands. A VALID
key is used as it is and nothing is raised; a FAILED key raises NotReady; with no key the DEFAULT_KEY text is
installed, whatever its length (KEY_LEN is not checked), as an INSTALL of the same text would; a fatal error of it is
raised, and else only the outer command's code is reported. -/
def Obligations.KeyCheckOfPackAndUnpack : Prop :=
  (∀ s : State,
    (s.key.state = .valid → ensureKey s = (s, none)) ∧
    (s.key.state = .failed → ensureKey s = (s, some .notReady)) ∧
    (s.key.state = .none → ∃ o,
      ensureKey s = ({ s with key := (installKey s.cfg s.cfg.defaultKey true s.key).1 }, o) ∧
        ∀ e, o = some e ↔ (installKey s.cfg s.cfg.defaultKey true s.key).2 = .error e)) ∧
  ∀ (i : Instr) (s : State), (i = .pack ∨ i = .unpack) → s.srcLen.toNat ≤ s.cfg.srcMax →
    ∃ t : State, exec i s = .next t ∧
      (s.key.state = .valid → t.key = s.key) ∧
      (s.key.state = .failed → t.key = s.key ∧ t.errCode = .notReady ∧ t.out = ResultRegs.absent) ∧
      (s.key.state = .none →
        t.key = (installKey s.cfg s.cfg.defaultKey true s.key).1 ∧
        (∀ e, (installKey s.cfg s.cfg.defaultKey true s.key).2 = .error e → t.errCode = e) ∧
        ((t.key.state = .valid ∧ t.key.defaultKey = true ∧ t.errCode ≠ .invalidExpressionLine ∧
            t.errCode ≠ .dictionaryFull) ∨
          (t.key.state = .failed ∧ t.key.defaultKey = false ∧ t.out = ResultRegs.absent ∧
            t.errCode ∈ [ErrCode.treeBuildFailure, .codeTooLong, .traversalFailure, .allocationFailure])) ∧
        ∀ u v : State, u.cfg = s.cfg → u.key = s.key → keyText u = s.cfg.defaultKey →
          u.keyLen.toNat ≤ u.cfg.keyMax → exec .install u = .next v →
          { v.key with defaultKey := t.key.defaultKey } = t.key ∧
            (v.key.state = .failed → t.errCode = v.errCode))

/-- PACK once its key check has passed (with a VALID key or an implicit install): an error of the tokenizer is
the command's (43_pack.md R152), a result that does not fit is CapacityError (R151), and else the result bytes, the
result registers, the generator's steps and the frame (43_pack.md R140, R147 to R151; 45_control.md R188). The bytes
of DSTMEM behind the result are draws (20_memory.md R55; which draws, is the model's choice, log entry 5). The
payload is the SRC_LEN bytes from 0x02000 on (R54, R61); a nibble's first bit is its most significant one. -/
def Obligations.PackWritesThePackedString : Prop :=
  (∀ s : State, sourceBytes s = (List.range s.srcLen.toNat).map (fun i => byteAt s (0x02000 + i))) ∧
  (∀ b3 b2 b1 b0 : Bool,
    (nibbleOf b3 b2 b1 b0).toNat = 8 * b3.toNat + 4 * b2.toNat + 2 * b1.toNat + b0.toNat) ∧
  ∀ s s1 : State, paramsInRange s.cfg = true → s.srcLen.toNat ≤ s.cfg.srcMax → ensureKey s = (s1, none) →
    (∀ e, tokenize s1.key.ct s.cfg.dstMax (sourceBytes s) = .error e →
      ∃ t : State, exec .pack s = .next t ∧ FailedWith e s1.key s t) ∧
    ∀ bits : Bits, tokenize s1.key.ct s.cfg.dstMax (sourceBytes s) = .ok bits →
    let p := (8 - bits.length % 8) % 8
    let K := (bits.length + p) / 4
    let B := lfsrBits s.rng p ++ bits
    let v := fun i => nibbleOf (B[4 * i]?.getD false) (B[4 * i + 1]?.getD false)
      (B[4 * i + 2]?.getD false) (B[4 * i + 3]?.getD false)
    (s.cfg.dstMax < K + 2 →
      ∃ t : State, exec .pack s = .next t ∧ FailedWith .capacityError s1.key s t) ∧
    (K + 2 ≤ s.cfg.dstMax →
    ∃ t : State, exec .pack s = .next t ∧ CompletedWith .ok s t ∧ HostSideSame s t ∧ t.key = s1.key ∧
      (bits.length + p) % 8 = 0 ∧ K % 2 = 0 ∧
      t.out.dstLen.toNat = K + 2 ∧ t.out.pad.toNat = p ∧ t.out.trail = 0#8 ∧ t.out.trailWarn = false ∧
      t.rng = lfsrAfter s.rng p ∧
      byteAt t 0x04000 = 0x30#8 + BitVec.ofNat 8 p ∧
      (∀ i, i < K → byteAt t (0x04000 + 1 + i) = hexChar (v i)) ∧
      byteAt t (0x04000 + K + 1) = hexChar (((List.range K).map v).foldr (fun a b => a ^^^ b) 0#4) ∧
      (∀ i, K + 2 ≤ i → i < s.cfg.dstMax → byteAt t (0x04000 + i) = Config.freeByte s.draws (0x04000 + i)) ∧
      OutsideDstSame s t)

/-- PACK and UNPACK in general: the failure paths of 43_pack.md R152 and 44_unpack.md R170, the length check
of R141 and R161, and the frame of 45_control.md R188. Which draws fill DSTMEM after a failure is the model's
choice (log entry 5). -/
def Obligations.PackAndUnpackFailuresAndFrames : Prop :=
  ∀ (i : Instr) (s : State), (i = .pack ∨ i = .unpack) →
    ∃ t : State, exec i s = .next t ∧ CompletedWith t.errCode s t ∧ HostSideSame s t ∧
      OutsideDstSame s t ∧ (s.key.state ≠ .none → t.key = s.key) ∧ (i = .unpack → t.rng = s.rng) ∧
      (t.errCode ≠ .ok →
        t.out.dstLen = 0#16 ∧ t.out.pad = 0#3 ∧ t.out.trail = 0#8 ∧ t.out.trailWarn = false ∧
          t.rng = s.rng ∧ ∀ a, InDst s.cfg a → byteAt t a = Config.freeByte s.draws a) ∧
      (s.cfg.srcMax < s.srcLen.toNat → t.errCode = .capacityError ∧ t.key = s.key)

/-- 43_pack.md R155: the form of every successful result, in the digits of 00_scope.md R15. The result is the DST_LEN
bytes from 0x04000 on (20_memory.md R55). -/
def Obligations.PackedStringsAreFramed : Prop :=
  (∀ v : Nibble,
    (hexChar v).toNat = if v.toNat < 10 then 0x30 + v.toNat else 0x61 + v.toNat - 10) ∧
  (∀ s : State, resultBytes s = (List.range s.out.dstLen.toNat).map (fun i => byteAt s (0x04000 + i))) ∧
  ∀ s : State, paramsInRange s.cfg = true → ∃ t : State, exec .pack s = .next t ∧
    (t.errCode = .ok →
      t.out.dstLen.toNat % 2 = 0 ∧ 2 ≤ t.out.dstLen.toNat ∧
      (∃ c, (resultBytes t).head? = some c ∧ 0x30#8 ≤ c ∧ c ≤ 0x37#8) ∧
      ∀ c ∈ resultBytes t, (0x30#8 ≤ c ∧ c ≤ 0x39#8) ∨ (0x61#8 ≤ c ∧ c ≤ 0x66#8))

/-- The empty payload packs to `00` without a generator step (43_pack.md R154). -/
def Obligations.EmptyPayloadPacksToTwoZeros : Prop :=
  ∀ s s1 : State, paramsInRange s.cfg = true → ensureKey s = (s1, none) → s.srcLen = 0#16 →
    ∃ t : State, exec .pack s = .next t ∧ t.errCode = .ok ∧ t.out.dstLen = 2#16 ∧ t.out.pad = 0#3 ∧
      resultBytes t = [0x30#8, 0x30#8] ∧ t.rng = s.rng

/-- The tokenizer takes the longest expression of the code table that starts the rest of the input, never
longer than 15 bytes or than the input (43_pack.md R143, R144). -/
def Obligations.TokenizerTakesTheLongestMatch : Prop :=
  ∀ (ct : List CodeEntry) (rest : List Byte),
    (∀ l e, longestMatch ct rest = some (l, e) →
      1 ≤ l ∧ l ≤ 15 ∧ l ≤ rest.length ∧ e ∈ ct ∧ e.expr = rest.take l ∧
      ∀ f ∈ ct, f.expr.length ≤ 15 → f.expr <+: rest → f.expr.length ≤ l) ∧
    (longestMatch ct rest = none →
      ∀ f ∈ ct, 1 ≤ f.expr.length → f.expr.length ≤ 15 → ¬ f.expr <+: rest)

/-- What the tokenizer answers, in both directions: bits exactly when they are the codes of a list of entries that
make up the payload, each the longest match at its cursor, within the bit buffer (43_pack.md R143, R145); a code that
would exceed the buffer is CapacityError at once (R145), and a cursor without a match is EncodingFailure (R153). -/
def Obligations.TokenizerSplitsThePayload : Prop :=
  ∀ (ct : List CodeEntry) (dstMax : Nat) (payload : List Byte),
    (∀ bits : Bits, tokenize ct dstMax payload = .ok bits ↔
      ∃ tokens : List CodeEntry, (∀ e ∈ tokens, e ∈ ct) ∧ tokens.flatMap CodeEntry.expr = payload ∧
        tokens.flatMap CodeEntry.code = bits ∧ bits.length ≤ 4 * (dstMax - 2) ∧ LongestMatches ct tokens []) ∧
    (∀ (tokens : List CodeEntry) (rest : List Byte), tokens.flatMap CodeEntry.expr ++ rest = payload →
      LongestMatches ct tokens rest → (tokens.flatMap CodeEntry.code).length ≤ 4 * (dstMax - 2) →
      (∀ e, longestMatch ct rest = some (e.expr.length, e) →
        4 * (dstMax - 2) < (tokens.flatMap CodeEntry.code).length + e.code.length →
        tokenize ct dstMax payload = .error .capacityError) ∧
      (rest ≠ [] → longestMatch ct rest = none → tokenize ct dstMax payload = .error .encodingFailure))

/-- 43_pack.md R146 and R148: one step of the pad-bit generator, its zero state, and the outputs and the state of
successive steps, the first output first. -/
def Obligations.PadBitGeneratorStep : Prop :=
  (∀ S : BitVec 16, lfsrOut S = S.getLsbD 15 ∧
    (lfsrNext S).getLsbD 0 = (S.getLsbD 15 ^^ S.getLsbD 13 ^^ S.getLsbD 12 ^^ S.getLsbD 10) ∧
    ∀ i, i < 15 → (lfsrNext S).getLsbD (i + 1) = S.getLsbD i) ∧
  (∀ (S : BitVec 16) (n : Nat),
    lfsrBits S 0 = [] ∧ lfsrBits S (n + 1) = lfsrOut S :: lfsrBits (lfsrNext S) n ∧
    lfsrAfter S 0 = S ∧ lfsrAfter S (n + 1) = lfsrAfter (lfsrNext S) n) ∧
  (∀ n, lfsrAfter 0#16 n = 0#16 ∧ lfsrBits 0#16 n = List.replicate n false) ∧
  State.reset.rng = 0x0001#16

/-- 44_unpack.md R163: the empty packet unpacks to the empty payload. -/
def Obligations.EmptyPacketUnpacksToNothing : Prop :=
  ∀ s s1 : State, ensureKey s = (s1, none) → s.srcLen.toNat ≤ s.cfg.srcMax →
    sourceBytes s = [0x30#8, 0x30#8] →
    ∃ t : State, exec .unpack s = .next t ∧ CompletedWith .ok s t ∧ HostSideSame s t ∧ t.key = s1.key ∧
      t.rng = s.rng ∧ t.out.dstLen = 0#16 ∧ t.out.pad = 0#3 ∧ t.out.trail = 0#8 ∧
      t.out.trailWarn = false ∧ OutsideDstSame s t

/-- 44_unpack.md R164: a bad length, a bad pad digit and a byte that is no hex digit are FormatError. -/
def Obligations.UnpackRefusesBadFormats : Prop :=
  ∀ s s1 : State, ensureKey s = (s1, none) → s.srcLen.toNat ≤ s.cfg.srcMax →
    sourceBytes s ≠ [0x30#8, 0x30#8] →
    ((sourceBytes s).length ≤ 2 ∨ (sourceBytes s).length % 2 = 1 ∨
      (∃ c, (sourceBytes s).head? = some c ∧ (c < 0x30#8 ∨ 0x37#8 < c)) ∨
      (∃ c ∈ (sourceBytes s).tail, hexVal c = none)) →
    ∃ t : State, exec .unpack s = .next t ∧ CompletedWith .formatError s t ∧ HostSideSame s t ∧
      t.key = s1.key ∧ t.rng = s.rng ∧ t.out = ResultRegs.absent ∧ OutsideDstSame s t

/-- 44_unpack.md R165: a string of a good format whose data nibbles do not XOR to its last digit is
ChecksumError; the pad digit is not included. -/
def Obligations.UnpackRefusesBadChecksums : Prop :=
  ∀ (s s1 : State) (c : Byte) (cs : List Byte) (vs : List Nibble) (x : Nibble),
    ensureKey s = (s1, none) → s.srcLen.toNat ≤ s.cfg.srcMax → sourceBytes s = c :: cs →
    2 < (c :: cs).length → (c :: cs).length % 2 = 0 → 0x30#8 ≤ c → c ≤ 0x37#8 →
    hexVals cs = some (vs ++ [x]) → vs.foldr (fun a b => a ^^^ b) 0#4 ≠ x →
    ∃ t : State, exec .unpack s = .next t ∧ CompletedWith .checksumError s t ∧ HostSideSame s t ∧
      t.key = s1.key ∧ t.rng = s.rng ∧ t.out = ResultRegs.absent ∧ OutsideDstSame s t

/-- UNPACK of a string that passes its checks, after the key check: an error of the walk of the bits behind the pad
bits is the command's (44_unpack.md R169, R170), and else the walk gives the result, the registers and the frame
(44_unpack.md R160, R166, R168; 45_control.md R188). The bytes of DSTMEM behind the result are draws (20_memory.md
R55; which draws, is the model's choice, log entry 5). The packed string is the SRC_LEN bytes from 0x02000 on (R54,
R61), the result the DST_LEN bytes from 0x04000 on (R55). -/
def Obligations.UnpackWritesTheWalk : Prop :=
  (∀ s : State, sourceBytes s = (List.range s.srcLen.toNat).map (fun i => byteAt s (0x02000 + i)) ∧
    resultBytes s = (List.range s.out.dstLen.toNat).map (fun i => byteAt s (0x04000 + i))) ∧
  (∀ (cs : List Byte) (vs : List Nibble), hexVals cs = some vs ↔ cs.map hexVal = vs.map some) ∧
  (∀ v : Nibble, bits4 v = [v.getLsbD 3, v.getLsbD 2, v.getLsbD 1, v.getLsbD 0]) ∧
  ∀ (s s1 : State) (c : Byte) (cs : List Byte) (vs : List Nibble) (x : Nibble),
    paramsInRange s.cfg = true → ensureKey s = (s1, none) → s.srcLen.toNat ≤ s.cfg.srcMax →
    sourceBytes s = c :: cs → 2 < (c :: cs).length → (c :: cs).length % 2 = 0 →
    0x30#8 ≤ c → c ≤ 0x37#8 → hexVals cs = some (vs ++ [x]) →
    vs.foldr (fun a b => a ^^^ b) 0#4 = x →
    (∀ e, walk s1.key s.cfg.dstMax ((vs.flatMap bits4).drop (c.toNat - 0x30)) = .error e →
      ∃ t : State, exec .unpack s = .next t ∧ FailedWith e s1.key s t) ∧
    ∀ w : WalkResult, walk s1.key s.cfg.dstMax ((vs.flatMap bits4).drop (c.toNat - 0x30)) = .ok w →
    ∃ t : State, exec .unpack s = .next t ∧ CompletedWith .ok s t ∧ HostSideSame s t ∧ t.key = s1.key ∧
      t.rng = s.rng ∧ t.out.dstLen.toNat = w.output.length ∧ resultBytes t = w.output ∧
      t.out.pad.toNat = c.toNat - 0x30 ∧ t.out.trail = BitVec.ofNat 8 w.depth ∧
      t.out.trailWarn = decide (0 < w.depth) ∧
      (∀ i, w.output.length ≤ i → i < s.cfg.dstMax →
        byteAt t (0x04000 + i) = Config.freeByte s.draws (0x04000 + i)) ∧
      OutsideDstSame s t

/-- The walk reads a stream of complete codes as their expressions, and the bits of an unfinished path after
them are dropped and counted (44_unpack.md R167, R168); expressions that would take the output past DST_MAX bytes are
CapacityError, whatever bits follow (R169). -/
def Obligations.WalkDecodesCodesAndCountsTrailingBits : Prop :=
  ∀ (k : KeyTables) (dstMax : Nat) (tokens : List CodeEntry), TablesAgree k → (∀ e ∈ tokens, e ∈ k.ct) →
    (∀ (rest : Bits) (i : Nat) (w : Word) (l r : Nat), (tokens.flatMap CodeEntry.expr).length ≤ dstMax →
      reach k.pool k.root rest = some i → nodeAt k.pool i = .internal w l r →
      walk k dstMax (tokens.flatMap CodeEntry.code ++ rest) =
        .ok ⟨tokens.flatMap CodeEntry.expr, rest.length⟩ ∧ rest.length ≤ 127) ∧
    (∀ rest : Bits, dstMax < (tokens.flatMap CodeEntry.expr).length →
      walk k dstMax (tokens.flatMap CodeEntry.code ++ rest) = .error .capacityError)

/-- Changing one data nibble or the checksum of a packed string that passes its checks to another hex value
is ChecksumError, and to a byte that is no hex digit FormatError (44_unpack.md R171 (b), (d)). What the checks raise
is what UNPACK reports, once its key check has passed (R164, R165, R170). -/
def Obligations.ChecksumDetectsOneChangedDigit : Prop :=
  (∀ (s s1 : State) (e : ErrCode), ensureKey s = (s1, none) → s.srcLen.toNat ≤ s.cfg.srcMax →
    sourceBytes s ≠ [0x30#8, 0x30#8] → checkFrame (sourceBytes s) = .error e →
    ∃ t : State, exec .unpack s = .next t ∧ FailedWith e s1.key s t) ∧
  ∀ (c : Byte) (cs : List Byte) (f : Frame) (i : Nat) (x : Byte),
    checkFrame (c :: cs) = .ok f → i < cs.length →
    (hexVal x = none → checkFrame (c :: cs.set i x) = .error .formatError) ∧
    (∀ v, hexVal x = some v → (cs[i]?.bind hexVal) ≠ some v →
      checkFrame (c :: cs.set i x) = .error .checksumError)

/-- Round trip: UNPACK of the result of a successful PACK (with a VALID key or an implicit install) under the
same key returns the payload, whatever the pad bits, with no trailing bits (44_unpack.md R171 (a)). The payload
must fit DSTMEM and the packed string SRCMEM. -/
def Obligations.UnpackOfPackReturnsThePayload : Prop :=
  ∀ s t u : State, paramsInRange s.cfg = true → (s.key.state = .valid → TablesAgree s.key) →
    s.srcLen.toNat ≤ s.cfg.dstMax → exec .pack s = .next t → t.errCode = .ok →
    u.cfg = s.cfg → u.key = t.key → u.srcLen = t.out.dstLen → u.srcLen.toNat ≤ u.cfg.srcMax →
    sourceBytes u = resultBytes t →
    ∃ v : State, exec .unpack u = .next v ∧ v.errCode = .ok ∧ v.out.dstLen = s.srcLen ∧
      resultBytes v = sourceBytes s ∧ v.out.pad = t.out.pad ∧ v.out.trail = 0#8 ∧
      v.out.trailWarn = false

/-- TreeBuildFailure, AllocationFailure, TraversalFailure and EncodingFailure are never reported
(60_exceptions.md R203), from any state that meets the two invariants. -/
def Obligations.UnreachableErrorsAreNeverReported : Prop :=
  ∀ (i : Instr) (s : State), Inv s → CodesInv s →
    ∃ t : State, exec i s = .next t ∧
      t.errCode ∉ [ErrCode.treeBuildFailure, .allocationFailure, .traversalFailure, .encodingFailure]

/-- 10_state.md R46: the changes of KEY_STATE, and that nothing else changes the key tables (20_memory.md
R66). A PACK or UNPACK whose length check refuses it leaves the key as it is (43_pack.md R141, 44_unpack.md
R161), and so does a refused INSTALL (40_install.md R101). That a due completion takes a step of its own, and that a
hardware reset is the queue's next operation, are the model's choice (log entries 2, 3 and 11). -/
def Obligations.KeyStateChangesOnlyAsListed : Prop :=
  ∀ s : State, ∃ t : State, step s = .next t ∧
    (∀ w, s.engine = .running w 0 → s.queue.head? ≠ some .hardReset →
      (decodeWord w = .install → s.cfg.keyMax < s.keyLen.toNat → t.key = s.key) ∧
      (decodeWord w = .install → s.keyLen.toNat ≤ s.cfg.keyMax →
        t.key.state =
          if t.errCode ∈ [ErrCode.treeBuildFailure, .codeTooLong, .traversalFailure, .allocationFailure]
          then .failed else .valid) ∧
      ((decodeWord w = .pack ∨ decodeWord w = .unpack) → s.key.state ≠ .none → t.key = s.key) ∧
      ((decodeWord w = .pack ∨ decodeWord w = .unpack) → s.key.state = .none →
        s.srcLen.toNat ≤ s.cfg.srcMax →
        t.key.state =
          if t.errCode ∈ [ErrCode.treeBuildFailure, .codeTooLong, .traversalFailure, .allocationFailure]
          then .failed else .valid) ∧
      ((decodeWord w = .pack ∨ decodeWord w = .unpack) → s.key.state = .failed →
        s.srcLen.toNat ≤ s.cfg.srcMax → t.errCode = .notReady) ∧
      ((decodeWord w = .pack ∨ decodeWord w = .unpack) → s.cfg.srcMax < s.srcLen.toNat →
        t.key = s.key) ∧
      (decodeWord w = .reset → t.key.state = .none) ∧
      (∀ op zero, decodeWord w = .illegal op zero → t.key = s.key)) ∧
    ((∀ w, s.engine ≠ .running w 0) → s.queue.head? ≠ some .hardReset → t.key = s.key) ∧
    (s.queue.head? = some .hardReset → t.key.state = .none)

/-- The invariant holds right after reset (the canonical form of memory is the model's, log entry 5). -/
def Obligations.InvariantHoldsAtReset : Prop := Inv State.reset ∧ CodesInv State.reset

/-- Every step keeps the state invariant: canonical memory in the windows, the lifecycle of 45_control.md
R183, the flags' agreement, the bounds of the result registers, the capacities and index widths of the hidden
tables (00_scope.md R8), and the agreement of the key tables. -/
def Obligations.EveryStepKeepsTheInvariant : Prop :=
  ∀ s t : State, Inv s → step s = .next t → Inv t

/-- Every step keeps the codes of a VALID key complete (42_code_table.md R137). -/
def Obligations.EveryStepKeepsTheCodesComplete : Prop :=
  ∀ s t : State, CodesInv s → step s = .next t → CodesInv t

/-- The expansions of the statements and the pseudo-statements (30_encoding.md R91, R92), with every operation of
LOADSRC and LOADKEY, and what WAIT and READDST then do while the core is idle: WAIT ends with one read of STATUS, and
READDST reads DST_LEN and leaves that many byte reads of DSTMEM, in order. WAIT and READDST as operations of the
queue are the model's choice (log entry 15). -/
def Obligations.PseudoStatementsExpand : Prop :=
  (∀ r v, expand (.wr r v) = [.write (regOffset r) 4 v]) ∧
  (∀ r, expand (.rd r) = [.read (regOffset r) 4]) ∧
  (∀ a b, expand (.wrb a b) = [.write a 1 (b.setWidth 32)]) ∧
  (∀ a, expand (.rdb a) = [.read a 1]) ∧
  (∀ v, expand (.seed v) = [.write 0x00048#20 4 v]) ∧
  expand .install = [.write 0x00010#20 4 0x00000001#32] ∧
  expand .pack = [.write 0x00010#20 4 0x00000002#32] ∧
  expand .unpack = [.write 0x00010#20 4 0x00000003#32] ∧
  expand .reset = [.write 0x00010#20 4 0x0000000F#32] ∧
  expand .wait = [.wait] ∧ expand .readDst = [.readDst] ∧
  (∀ t, expand (.packStr t) =
    expand (.loadSrc t) ++ expand .pack ++ expand .wait ++ expand (.rd .errCode) ++ expand .readDst) ∧
  (∀ t, expand (.unpackStr t) =
    expand (.loadSrc t) ++ expand .unpack ++ expand .wait ++ expand (.rd .errCode) ++ expand .readDst) ∧
  (∀ t, expand (.installKey t) =
    expand (.loadKey t) ++ expand .install ++ expand .wait ++ expand (.rd .errCode)) ∧
  (∀ (t : List Byte) (i : Nat) (b : Byte), t[i]? = some b →
    (expand (.loadSrc t))[i]? = some (.write (BitVec.ofNat 20 (0x02000 + i)) 1 (b.setWidth 32)) ∧
    (expand (.loadKey t))[i]? = some (.write (BitVec.ofNat 20 (0x01000 + i)) 1 (b.setWidth 32))) ∧
  (∀ t, (expand (.loadSrc t)).length = t.length + 1 ∧ (expand (.loadKey t)).length = t.length + 1 ∧
    (expand (.loadSrc t)).getLast? = some (.write 0x00024#20 4 (BitVec.ofNat 32 t.length)) ∧
    (expand (.loadKey t)).getLast? = some (.write 0x00020#20 4 (BitVec.ofNat 32 t.length))) ∧
  (∀ s q, s.busy = false → s.queue = .wait :: q →
    step s = .next { s with port := .readData (regValue s .status), queue := q }) ∧
  (∀ s q, s.busy = false → s.queue = .readDst :: q →
    step s = .next { s with
      port := .readData (s.out.dstLen.setWidth 32)
      queue := (List.range s.out.dstLen.toNat).map
        (fun i => .read (BitVec.ofNat 20 (0x04000 + i)) 1) ++ q })
end

