-- ==== Sys2Proof/Laws/Memory.lean ====
section
/-! SUPPORT. What the memory operations do, said once: what is read after each of them, and that each keeps
the canonical form. -/

namespace Sys2Proof.Machine

@[simp] theorem memRead_nil (a : Nat) : memRead [] a = none := rfl

@[simp] theorem memRead_cons (c : Host.Cell) (m : Memory) (a : Nat) :
    memRead (c :: m) a = if c.1 = a then some c.2 else memRead m a := rfl

/-- A read after a write gives the byte written at its address and the old byte elsewhere. -/
theorem memRead_memWrite (m : Memory) (a x : Nat) (b : Byte) :
    memRead (memWrite m a b) x = if x = a then some b else memRead m x := by
  induction m with
  | nil => simp [memWrite, eq_comm]
  | cons c cs ih =>
    simp only [memWrite]
    by_cases hlt : a < c.1
    · simp [hlt, eq_comm]
    · by_cases heq : a = c.1
      · subst heq
        by_cases hx : x = c.1
        · simp [hx]
        · have hx' : ¬ c.1 = x := fun h => hx h.symm
          simp [hx, hx']
      · by_cases hx : x = a
        · subst hx
          have : ¬ c.1 = x := fun h => heq h.symm
          simp [hlt, heq, this, ih]
        · simp [hlt, heq, hx, ih]

/-- A read after a write of bytes gives the byte written inside the bytes and the old byte outside. -/
theorem memRead_memWriteBytes (bs : List Byte) (m : Memory) (a x : Nat) :
    memRead (memWriteBytes m a bs) x =
      if a ≤ x ∧ x < a + bs.length then bs[x - a]? else memRead m x := by
  induction bs generalizing m a with
  | nil => rw [memWriteBytes, if_neg (fun h => Nat.lt_irrefl _ (Nat.lt_of_le_of_lt h.1 h.2))]
  | cons b bs ih =>
    simp only [memWriteBytes, ih, memRead_memWrite, List.length_cons]
    by_cases h1 : a + 1 ≤ x ∧ x < a + 1 + bs.length
    · have h2 : a ≤ x ∧ x < a + (bs.length + 1) := by omega
      have h3 : x - a = (x - (a + 1)) + 1 := by omega
      simp [h1, h2, h3]
    · by_cases h4 : x = a
      · subst h4
        rw [if_neg h1]
        simp
      · have h5 : ¬ (a ≤ x ∧ x < a + (bs.length + 1)) := by omega
        simp only [h1, h4, h5, if_false]

/-- A forgotten byte is not listed any more; every other read is as before. -/
theorem memRead_memForget (m : Memory) (base n x : Nat) :
    memRead (memForget m base n) x = if base ≤ x ∧ x < base + n then none else memRead m x := by
  induction m with
  | nil => simp [memForget]
  | cons c cs ih =>
    have hcons : memForget (c :: cs) base n =
        if base ≤ c.1 ∧ c.1 < base + n then memForget cs base n else c :: memForget cs base n := by
      by_cases h : base ≤ c.1 ∧ c.1 < base + n
      · simp [memForget, h.1, h.2]
      · have : ¬ (base ≤ c.1 ∧ c.1 < base + n) := h
        simp only [memForget, List.filter_cons]
        by_cases h1 : base ≤ c.1
        · have h2 : ¬ c.1 < base + n := fun h2 => h ⟨h1, h2⟩
          simp [h1, h2]
        · simp [h1]
    rw [hcons, memRead_cons]
    by_cases hc : base ≤ c.1 ∧ c.1 < base + n
    · rw [if_pos hc, ih]
      by_cases hx : base ≤ x ∧ x < base + n
      · simp [hx]
      · have : ¬ c.1 = x := fun h => hx (h ▸ hc)
        simp [hx, this]
    · rw [if_neg hc, memRead_cons, ih]
      by_cases hcx : c.1 = x
      · subst hcx
        simp [hc]
      · simp [hcx]

/-- The addresses a write lists are the old ones and its own. -/
theorem mem_memWrite {m : Memory} {a : Nat} {b : Byte} {c : Host.Cell} (h : c ∈ memWrite m a b) :
    c = (a, b) ∨ c ∈ m := by
  induction m with
  | nil => simpa [memWrite] using h
  | cons d ds ih =>
    simp only [memWrite] at h
    split at h
    · simpa using h
    · split at h
      · rcases List.mem_cons.mp h with h | h
        · exact .inl h
        · exact .inr (List.mem_cons_of_mem _ h)
      · rcases List.mem_cons.mp h with h | h
        · exact .inr (h ▸ List.mem_cons_self)
        · rcases ih h with h | h
          · exact .inl h
          · exact .inr (List.mem_cons_of_mem _ h)

/-- A write keeps the canonical form. -/
theorem memWrite_wf {m : Memory} (h : Memory.wf m) (a : Nat) (b : Byte) : Memory.wf (memWrite m a b) := by
  induction m with
  | nil => simp [memWrite, Memory.wf]
  | cons c cs ih =>
    obtain ⟨hc, hcs⟩ := List.pairwise_cons.mp h
    simp only [memWrite]
    split
    · rename_i hlt
      refine List.pairwise_cons.mpr ⟨fun d hd => ?_, h⟩
      rcases List.mem_cons.mp hd with rfl | hd
      · exact hlt
      · exact Nat.lt_trans hlt (hc d hd)
    · split
      · rename_i heq
        refine List.pairwise_cons.mpr ⟨fun d hd => ?_, hcs⟩
        have := hc d hd
        simp only [heq]
        exact this
      · rename_i hlt hne
        refine List.pairwise_cons.mpr ⟨fun d hd => ?_, ih hcs⟩
        rcases mem_memWrite hd with rfl | hd
        · show c.1 < a
          omega
        · exact hc d hd

/-- A write of bytes keeps the canonical form. -/
theorem memWriteBytes_wf {m : Memory} (h : Memory.wf m) (bs : List Byte) (a : Nat) :
    Memory.wf (memWriteBytes m a bs) := by
  induction bs generalizing m a with
  | nil => exact h
  | cons b bs ih => exact ih (memWrite_wf h a b) (a + 1)

/-- Forgetting keeps the canonical form. -/
theorem memForget_wf {m : Memory} (h : Memory.wf m) (base n : Nat) : Memory.wf (memForget m base n) :=
  h.filter _

/-- The memory of the reset state is canonical. -/
theorem reset_mem_wf : Memory.wf State.reset.mem := List.Pairwise.nil

/-- The bytes a write of bytes lists are old ones or its own. -/
theorem mem_memWriteBytes {bs : List Byte} {m : Memory} {a : Nat} {c : Host.Cell}
    (h : c ∈ memWriteBytes m a bs) : (a ≤ c.1 ∧ c.1 < a + bs.length) ∨ c ∈ m := by
  induction bs generalizing m a with
  | nil => exact .inr h
  | cons b bs ih =>
    rcases ih h with h | h
    · left
      simp only [List.length_cons]
      omega
    · rcases mem_memWrite h with rfl | h
      · left
        simp
      · exact .inr h

/-- The bytes still listed after forgetting are old ones outside the forgotten range. -/
theorem mem_memForget {m : Memory} {base n : Nat} {c : Host.Cell} :
    c ∈ memForget m base n ↔ c ∈ m ∧ ¬ (base ≤ c.1 ∧ c.1 < base + n) := by
  simp only [memForget, List.mem_filter, Bool.not_eq_true', Bool.and_eq_false_iff, decide_eq_false_iff_not]
  refine and_congr_right fun _ => ?_
  omega

/-- Two states with the same memory, epochs and parameters read alike. -/
theorem byteAt_congr {s t : State} (hm : t.mem = s.mem) (hc : t.cfg = s.cfg)
    (hk : t.keySrcEpoch = s.keySrcEpoch) (hd : t.dstEpoch = s.dstEpoch) (a : Nat) :
    byteAt t a = byteAt s a := by
  simp [byteAt, epochAt, hm, hc, hk, hd]

end Sys2Proof.Machine
end

