-- ==== Sys2Proof/Laws/State.lean ====
section
/-! SUPPORT. One lemma per field per update of the state (true by rfl, tagged simp), so that no later proof
unfolds a record update. -/

namespace Sys2Proof.Machine


@[simp] theorem nextDraw_cfg (s : State) : (nextDraw s).cfg = s.cfg := rfl
@[simp] theorem nextDraw_cmdLast (s : State) : (nextDraw s).cmdLast = s.cmdLast := rfl
@[simp] theorem nextDraw_done (s : State) : (nextDraw s).done = s.done := rfl
@[simp] theorem nextDraw_err (s : State) : (nextDraw s).err = s.err := rfl
@[simp] theorem nextDraw_errCode (s : State) : (nextDraw s).errCode = s.errCode := rfl
@[simp] theorem nextDraw_keyLen (s : State) : (nextDraw s).keyLen = s.keyLen := rfl
@[simp] theorem nextDraw_srcLen (s : State) : (nextDraw s).srcLen = s.srcLen := rfl
@[simp] theorem nextDraw_out (s : State) : (nextDraw s).out = s.out := rfl
@[simp] theorem nextDraw_key (s : State) : (nextDraw s).key = s.key := rfl
@[simp] theorem nextDraw_irqEn (s : State) : (nextDraw s).irqEn = s.irqEn := rfl
@[simp] theorem nextDraw_irqStatus (s : State) : (nextDraw s).irqStatus = s.irqStatus := rfl
@[simp] theorem nextDraw_rng (s : State) : (nextDraw s).rng = s.rng := rfl
@[simp] theorem nextDraw_mem (s : State) : (nextDraw s).mem = s.mem := rfl
@[simp] theorem nextDraw_engine (s : State) : (nextDraw s).engine = s.engine := rfl
@[simp] theorem nextDraw_keySrcEpoch (s : State) : (nextDraw s).keySrcEpoch = s.keySrcEpoch := rfl
@[simp] theorem nextDraw_dstEpoch (s : State) : (nextDraw s).dstEpoch = s.dstEpoch := rfl
@[simp] theorem nextDraw_draws (s : State) : (nextDraw s).draws = s.draws + 1 := rfl
@[simp] theorem nextDraw_queue (s : State) : (nextDraw s).queue = s.queue := rfl
@[simp] theorem nextDraw_port (s : State) : (nextDraw s).port = s.port := rfl

@[simp] theorem drawDst_cfg (s : State) : (drawDst s).cfg = s.cfg := rfl
@[simp] theorem drawDst_cmdLast (s : State) : (drawDst s).cmdLast = s.cmdLast := rfl
@[simp] theorem drawDst_done (s : State) : (drawDst s).done = s.done := rfl
@[simp] theorem drawDst_err (s : State) : (drawDst s).err = s.err := rfl
@[simp] theorem drawDst_errCode (s : State) : (drawDst s).errCode = s.errCode := rfl
@[simp] theorem drawDst_keyLen (s : State) : (drawDst s).keyLen = s.keyLen := rfl
@[simp] theorem drawDst_srcLen (s : State) : (drawDst s).srcLen = s.srcLen := rfl
@[simp] theorem drawDst_out (s : State) : (drawDst s).out = s.out := rfl
@[simp] theorem drawDst_key (s : State) : (drawDst s).key = s.key := rfl
@[simp] theorem drawDst_irqEn (s : State) : (drawDst s).irqEn = s.irqEn := rfl
@[simp] theorem drawDst_irqStatus (s : State) : (drawDst s).irqStatus = s.irqStatus := rfl
@[simp] theorem drawDst_rng (s : State) : (drawDst s).rng = s.rng := rfl
@[simp] theorem drawDst_mem (s : State) : (drawDst s).mem = memForget s.mem dstBase s.cfg.dstMax := rfl
@[simp] theorem drawDst_engine (s : State) : (drawDst s).engine = s.engine := rfl
@[simp] theorem drawDst_keySrcEpoch (s : State) : (drawDst s).keySrcEpoch = s.keySrcEpoch := rfl
@[simp] theorem drawDst_dstEpoch (s : State) : (drawDst s).dstEpoch = s.draws := rfl
@[simp] theorem drawDst_draws (s : State) : (drawDst s).draws = s.draws + 1 := rfl
@[simp] theorem drawDst_queue (s : State) : (drawDst s).queue = s.queue := rfl
@[simp] theorem drawDst_port (s : State) : (drawDst s).port = s.port := rfl

@[simp] theorem noResult_cfg (s : State) : (noResult s).cfg = s.cfg := rfl
@[simp] theorem noResult_cmdLast (s : State) : (noResult s).cmdLast = s.cmdLast := rfl
@[simp] theorem noResult_done (s : State) : (noResult s).done = s.done := rfl
@[simp] theorem noResult_err (s : State) : (noResult s).err = s.err := rfl
@[simp] theorem noResult_errCode (s : State) : (noResult s).errCode = s.errCode := rfl
@[simp] theorem noResult_keyLen (s : State) : (noResult s).keyLen = s.keyLen := rfl
@[simp] theorem noResult_srcLen (s : State) : (noResult s).srcLen = s.srcLen := rfl
@[simp] theorem noResult_out (s : State) : (noResult s).out = ResultRegs.absent := rfl
@[simp] theorem noResult_key (s : State) : (noResult s).key = s.key := rfl
@[simp] theorem noResult_irqEn (s : State) : (noResult s).irqEn = s.irqEn := rfl
@[simp] theorem noResult_irqStatus (s : State) : (noResult s).irqStatus = s.irqStatus := rfl
@[simp] theorem noResult_rng (s : State) : (noResult s).rng = s.rng := rfl
@[simp] theorem noResult_mem (s : State) : (noResult s).mem = memForget s.mem dstBase s.cfg.dstMax := rfl
@[simp] theorem noResult_engine (s : State) : (noResult s).engine = s.engine := rfl
@[simp] theorem noResult_keySrcEpoch (s : State) : (noResult s).keySrcEpoch = s.keySrcEpoch := rfl
@[simp] theorem noResult_dstEpoch (s : State) : (noResult s).dstEpoch = s.draws := rfl
@[simp] theorem noResult_draws (s : State) : (noResult s).draws = s.draws + 1 := rfl
@[simp] theorem noResult_queue (s : State) : (noResult s).queue = s.queue := rfl
@[simp] theorem noResult_port (s : State) : (noResult s).port = s.port := rfl

@[simp] theorem writeResult_cfg (bytes : List Byte) (regs : ResultRegs) (s : State) : (writeResult bytes regs s).cfg = s.cfg := rfl
@[simp] theorem writeResult_cmdLast (bytes : List Byte) (regs : ResultRegs) (s : State) : (writeResult bytes regs s).cmdLast = s.cmdLast := rfl
@[simp] theorem writeResult_done (bytes : List Byte) (regs : ResultRegs) (s : State) : (writeResult bytes regs s).done = s.done := rfl
@[simp] theorem writeResult_err (bytes : List Byte) (regs : ResultRegs) (s : State) : (writeResult bytes regs s).err = s.err := rfl
@[simp] theorem writeResult_errCode (bytes : List Byte) (regs : ResultRegs) (s : State) : (writeResult bytes regs s).errCode = s.errCode := rfl
@[simp] theorem writeResult_keyLen (bytes : List Byte) (regs : ResultRegs) (s : State) : (writeResult bytes regs s).keyLen = s.keyLen := rfl
@[simp] theorem writeResult_srcLen (bytes : List Byte) (regs : ResultRegs) (s : State) : (writeResult bytes regs s).srcLen = s.srcLen := rfl
@[simp] theorem writeResult_out (bytes : List Byte) (regs : ResultRegs) (s : State) : (writeResult bytes regs s).out = regs := rfl
@[simp] theorem writeResult_key (bytes : List Byte) (regs : ResultRegs) (s : State) : (writeResult bytes regs s).key = s.key := rfl
@[simp] theorem writeResult_irqEn (bytes : List Byte) (regs : ResultRegs) (s : State) : (writeResult bytes regs s).irqEn = s.irqEn := rfl
@[simp] theorem writeResult_irqStatus (bytes : List Byte) (regs : ResultRegs) (s : State) : (writeResult bytes regs s).irqStatus = s.irqStatus := rfl
@[simp] theorem writeResult_rng (bytes : List Byte) (regs : ResultRegs) (s : State) : (writeResult bytes regs s).rng = s.rng := rfl
@[simp] theorem writeResult_mem (bytes : List Byte) (regs : ResultRegs) (s : State) : (writeResult bytes regs s).mem = memWriteBytes (memForget s.mem dstBase s.cfg.dstMax) dstBase bytes := rfl
@[simp] theorem writeResult_engine (bytes : List Byte) (regs : ResultRegs) (s : State) : (writeResult bytes regs s).engine = s.engine := rfl
@[simp] theorem writeResult_keySrcEpoch (bytes : List Byte) (regs : ResultRegs) (s : State) : (writeResult bytes regs s).keySrcEpoch = s.keySrcEpoch := rfl
@[simp] theorem writeResult_dstEpoch (bytes : List Byte) (regs : ResultRegs) (s : State) : (writeResult bytes regs s).dstEpoch = s.draws := rfl
@[simp] theorem writeResult_draws (bytes : List Byte) (regs : ResultRegs) (s : State) : (writeResult bytes regs s).draws = s.draws + 1 := rfl
@[simp] theorem writeResult_queue (bytes : List Byte) (regs : ResultRegs) (s : State) : (writeResult bytes regs s).queue = s.queue := rfl
@[simp] theorem writeResult_port (bytes : List Byte) (regs : ResultRegs) (s : State) : (writeResult bytes regs s).port = s.port := rfl

@[simp] theorem complete_cfg (c : ErrCode) (s : State) : (complete c s).cfg = s.cfg := rfl
@[simp] theorem complete_cmdLast (c : ErrCode) (s : State) : (complete c s).cmdLast = s.cmdLast := rfl
@[simp] theorem complete_done (c : ErrCode) (s : State) : (complete c s).done = true := rfl
@[simp] theorem complete_err (c : ErrCode) (s : State) : (complete c s).err = decide (c ≠ .ok) := rfl
@[simp] theorem complete_errCode (c : ErrCode) (s : State) : (complete c s).errCode = c := rfl
@[simp] theorem complete_keyLen (c : ErrCode) (s : State) : (complete c s).keyLen = s.keyLen := rfl
@[simp] theorem complete_srcLen (c : ErrCode) (s : State) : (complete c s).srcLen = s.srcLen := rfl
@[simp] theorem complete_out (c : ErrCode) (s : State) : (complete c s).out = s.out := rfl
@[simp] theorem complete_key (c : ErrCode) (s : State) : (complete c s).key = s.key := rfl
@[simp] theorem complete_irqEn (c : ErrCode) (s : State) : (complete c s).irqEn = s.irqEn := rfl
@[simp] theorem complete_irqStatus (c : ErrCode) (s : State) : (complete c s).irqStatus = s.irqStatus ||| completionEvents c := rfl
@[simp] theorem complete_rng (c : ErrCode) (s : State) : (complete c s).rng = s.rng := rfl
@[simp] theorem complete_mem (c : ErrCode) (s : State) : (complete c s).mem = s.mem := rfl
@[simp] theorem complete_engine (c : ErrCode) (s : State) : (complete c s).engine = .idle := rfl
@[simp] theorem complete_keySrcEpoch (c : ErrCode) (s : State) : (complete c s).keySrcEpoch = s.keySrcEpoch := rfl
@[simp] theorem complete_dstEpoch (c : ErrCode) (s : State) : (complete c s).dstEpoch = s.dstEpoch := rfl
@[simp] theorem complete_draws (c : ErrCode) (s : State) : (complete c s).draws = s.draws := rfl
@[simp] theorem complete_queue (c : ErrCode) (s : State) : (complete c s).queue = s.queue := rfl
@[simp] theorem complete_port (c : ErrCode) (s : State) : (complete c s).port = s.port := rfl

@[simp] theorem dropWrite_cfg (s : State) : (dropWrite s).cfg = s.cfg := rfl
@[simp] theorem dropWrite_cmdLast (s : State) : (dropWrite s).cmdLast = s.cmdLast := rfl
@[simp] theorem dropWrite_done (s : State) : (dropWrite s).done = s.done := rfl
@[simp] theorem dropWrite_err (s : State) : (dropWrite s).err = s.err := rfl
@[simp] theorem dropWrite_errCode (s : State) : (dropWrite s).errCode = s.errCode := rfl
@[simp] theorem dropWrite_keyLen (s : State) : (dropWrite s).keyLen = s.keyLen := rfl
@[simp] theorem dropWrite_srcLen (s : State) : (dropWrite s).srcLen = s.srcLen := rfl
@[simp] theorem dropWrite_out (s : State) : (dropWrite s).out = s.out := rfl
@[simp] theorem dropWrite_key (s : State) : (dropWrite s).key = s.key := rfl
@[simp] theorem dropWrite_irqEn (s : State) : (dropWrite s).irqEn = s.irqEn := rfl
@[simp] theorem dropWrite_irqStatus (s : State) : (dropWrite s).irqStatus = s.irqStatus ||| dropEvent := rfl
@[simp] theorem dropWrite_rng (s : State) : (dropWrite s).rng = s.rng := rfl
@[simp] theorem dropWrite_mem (s : State) : (dropWrite s).mem = s.mem := rfl
@[simp] theorem dropWrite_engine (s : State) : (dropWrite s).engine = s.engine := rfl
@[simp] theorem dropWrite_keySrcEpoch (s : State) : (dropWrite s).keySrcEpoch = s.keySrcEpoch := rfl
@[simp] theorem dropWrite_dstEpoch (s : State) : (dropWrite s).dstEpoch = s.dstEpoch := rfl
@[simp] theorem dropWrite_draws (s : State) : (dropWrite s).draws = s.draws := rfl
@[simp] theorem dropWrite_queue (s : State) : (dropWrite s).queue = s.queue := rfl
@[simp] theorem dropWrite_port (s : State) : (dropWrite s).port = s.port := rfl

@[simp] theorem acceptCommand_cfg (v : Word) (n : Nat) (s : State) : (acceptCommand v n s).cfg = s.cfg := rfl
@[simp] theorem acceptCommand_cmdLast (v : Word) (n : Nat) (s : State) : (acceptCommand v n s).cmdLast = v.extractLsb' 0 4 := rfl
@[simp] theorem acceptCommand_done (v : Word) (n : Nat) (s : State) : (acceptCommand v n s).done = false := rfl
@[simp] theorem acceptCommand_err (v : Word) (n : Nat) (s : State) : (acceptCommand v n s).err = s.err := rfl
@[simp] theorem acceptCommand_errCode (v : Word) (n : Nat) (s : State) : (acceptCommand v n s).errCode = s.errCode := rfl
@[simp] theorem acceptCommand_keyLen (v : Word) (n : Nat) (s : State) : (acceptCommand v n s).keyLen = s.keyLen := rfl
@[simp] theorem acceptCommand_srcLen (v : Word) (n : Nat) (s : State) : (acceptCommand v n s).srcLen = s.srcLen := rfl
@[simp] theorem acceptCommand_out (v : Word) (n : Nat) (s : State) : (acceptCommand v n s).out = s.out := rfl
@[simp] theorem acceptCommand_key (v : Word) (n : Nat) (s : State) : (acceptCommand v n s).key = s.key := rfl
@[simp] theorem acceptCommand_irqEn (v : Word) (n : Nat) (s : State) : (acceptCommand v n s).irqEn = s.irqEn := rfl
@[simp] theorem acceptCommand_irqStatus (v : Word) (n : Nat) (s : State) : (acceptCommand v n s).irqStatus = s.irqStatus := rfl
@[simp] theorem acceptCommand_rng (v : Word) (n : Nat) (s : State) : (acceptCommand v n s).rng = s.rng := rfl
@[simp] theorem acceptCommand_mem (v : Word) (n : Nat) (s : State) : (acceptCommand v n s).mem = s.mem := rfl
@[simp] theorem acceptCommand_engine (v : Word) (n : Nat) (s : State) : (acceptCommand v n s).engine = .running v n := rfl
@[simp] theorem acceptCommand_keySrcEpoch (v : Word) (n : Nat) (s : State) : (acceptCommand v n s).keySrcEpoch = s.keySrcEpoch := rfl
@[simp] theorem acceptCommand_dstEpoch (v : Word) (n : Nat) (s : State) : (acceptCommand v n s).dstEpoch = s.dstEpoch := rfl
@[simp] theorem acceptCommand_draws (v : Word) (n : Nat) (s : State) : (acceptCommand v n s).draws = s.draws := rfl
@[simp] theorem acceptCommand_queue (v : Word) (n : Nat) (s : State) : (acceptCommand v n s).queue = s.queue := rfl
@[simp] theorem acceptCommand_port (v : Word) (n : Nat) (s : State) : (acceptCommand v n s).port = s.port := rfl

@[simp] theorem withAccepted_cfg (v : Word) (s : State) : (withAccepted v s).cfg = s.cfg := rfl
@[simp] theorem withAccepted_cmdLast (v : Word) (s : State) : (withAccepted v s).cmdLast = v.extractLsb' 0 4 := rfl
@[simp] theorem withAccepted_done (v : Word) (s : State) : (withAccepted v s).done = false := rfl
@[simp] theorem withAccepted_err (v : Word) (s : State) : (withAccepted v s).err = s.err := rfl
@[simp] theorem withAccepted_errCode (v : Word) (s : State) : (withAccepted v s).errCode = s.errCode := rfl
@[simp] theorem withAccepted_keyLen (v : Word) (s : State) : (withAccepted v s).keyLen = s.keyLen := rfl
@[simp] theorem withAccepted_srcLen (v : Word) (s : State) : (withAccepted v s).srcLen = s.srcLen := rfl
@[simp] theorem withAccepted_out (v : Word) (s : State) : (withAccepted v s).out = s.out := rfl
@[simp] theorem withAccepted_key (v : Word) (s : State) : (withAccepted v s).key = s.key := rfl
@[simp] theorem withAccepted_irqEn (v : Word) (s : State) : (withAccepted v s).irqEn = s.irqEn := rfl
@[simp] theorem withAccepted_irqStatus (v : Word) (s : State) : (withAccepted v s).irqStatus = s.irqStatus := rfl
@[simp] theorem withAccepted_rng (v : Word) (s : State) : (withAccepted v s).rng = s.rng := rfl
@[simp] theorem withAccepted_mem (v : Word) (s : State) : (withAccepted v s).mem = s.mem := rfl
@[simp] theorem withAccepted_engine (v : Word) (s : State) : (withAccepted v s).engine = .running v 0 := rfl
@[simp] theorem withAccepted_keySrcEpoch (v : Word) (s : State) : (withAccepted v s).keySrcEpoch = s.keySrcEpoch := rfl
@[simp] theorem withAccepted_dstEpoch (v : Word) (s : State) : (withAccepted v s).dstEpoch = s.dstEpoch := rfl
@[simp] theorem withAccepted_draws (v : Word) (s : State) : (withAccepted v s).draws = s.draws := rfl
@[simp] theorem withAccepted_queue (v : Word) (s : State) : (withAccepted v s).queue = withoutReset s.queue := rfl
@[simp] theorem withAccepted_port (v : Word) (s : State) : (withAccepted v s).port = s.port := rfl

@[simp] theorem resetKept_cfg (s : State) : (resetState true s).cfg = s.cfg := rfl
@[simp] theorem resetKept_cmdLast (s : State) : (resetState true s).cmdLast = 0#4 := rfl
@[simp] theorem resetKept_done (s : State) : (resetState true s).done = false := rfl
@[simp] theorem resetKept_err (s : State) : (resetState true s).err = false := rfl
@[simp] theorem resetKept_errCode (s : State) : (resetState true s).errCode = .ok := rfl
@[simp] theorem resetKept_keyLen (s : State) : (resetState true s).keyLen = 0#16 := rfl
@[simp] theorem resetKept_srcLen (s : State) : (resetState true s).srcLen = 0#16 := rfl
@[simp] theorem resetKept_out (s : State) : (resetState true s).out = ResultRegs.absent := rfl
@[simp] theorem resetKept_key (s : State) : (resetState true s).key = KeyTables.reset := rfl
@[simp] theorem resetKept_irqEn (s : State) : (resetState true s).irqEn = 0#3 := rfl
@[simp] theorem resetKept_irqStatus (s : State) : (resetState true s).irqStatus = 0#3 := rfl
@[simp] theorem resetKept_rng (s : State) : (resetState true s).rng = rngReset := rfl
@[simp] theorem resetKept_mem (s : State) : (resetState true s).mem = s.mem := rfl
@[simp] theorem resetKept_engine (s : State) : (resetState true s).engine = .idle := rfl
@[simp] theorem resetKept_keySrcEpoch (s : State) : (resetState true s).keySrcEpoch = s.keySrcEpoch := rfl
@[simp] theorem resetKept_dstEpoch (s : State) : (resetState true s).dstEpoch = s.dstEpoch := rfl
@[simp] theorem resetKept_draws (s : State) : (resetState true s).draws = s.draws := rfl
@[simp] theorem resetKept_queue (s : State) : (resetState true s).queue = s.queue := rfl
@[simp] theorem resetKept_port (s : State) : (resetState true s).port = s.port := rfl

@[simp] theorem resetHard_cfg (s : State) : (resetState false s).cfg = s.cfg := rfl
@[simp] theorem resetHard_cmdLast (s : State) : (resetState false s).cmdLast = 0#4 := rfl
@[simp] theorem resetHard_done (s : State) : (resetState false s).done = false := rfl
@[simp] theorem resetHard_err (s : State) : (resetState false s).err = false := rfl
@[simp] theorem resetHard_errCode (s : State) : (resetState false s).errCode = .ok := rfl
@[simp] theorem resetHard_keyLen (s : State) : (resetState false s).keyLen = 0#16 := rfl
@[simp] theorem resetHard_srcLen (s : State) : (resetState false s).srcLen = 0#16 := rfl
@[simp] theorem resetHard_out (s : State) : (resetState false s).out = ResultRegs.absent := rfl
@[simp] theorem resetHard_key (s : State) : (resetState false s).key = KeyTables.reset := rfl
@[simp] theorem resetHard_irqEn (s : State) : (resetState false s).irqEn = 0#3 := rfl
@[simp] theorem resetHard_irqStatus (s : State) : (resetState false s).irqStatus = 0#3 := rfl
@[simp] theorem resetHard_rng (s : State) : (resetState false s).rng = rngReset := rfl
@[simp] theorem resetHard_mem (s : State) : (resetState false s).mem = [] := rfl
@[simp] theorem resetHard_engine (s : State) : (resetState false s).engine = .idle := rfl
@[simp] theorem resetHard_keySrcEpoch (s : State) : (resetState false s).keySrcEpoch = s.draws := rfl
@[simp] theorem resetHard_dstEpoch (s : State) : (resetState false s).dstEpoch = s.draws := rfl
@[simp] theorem resetHard_draws (s : State) : (resetState false s).draws = s.draws + 1 := rfl
@[simp] theorem resetHard_queue (s : State) : (resetState false s).queue = s.queue := rfl
@[simp] theorem resetHard_port (s : State) : (resetState false s).port = .noneYet := rfl

@[simp] theorem resetCommand_cfg (s : State) : (resetCommand s).cfg = s.cfg := rfl
@[simp] theorem resetCommand_cmdLast (s : State) : (resetCommand s).cmdLast = 0xF#4 := rfl
@[simp] theorem resetCommand_done (s : State) : (resetCommand s).done = true := rfl
@[simp] theorem resetCommand_err (s : State) : (resetCommand s).err = decide (ErrCode.ok ≠ .ok) := rfl
@[simp] theorem resetCommand_errCode (s : State) : (resetCommand s).errCode = .ok := rfl
@[simp] theorem resetCommand_keyLen (s : State) : (resetCommand s).keyLen = 0#16 := rfl
@[simp] theorem resetCommand_srcLen (s : State) : (resetCommand s).srcLen = 0#16 := rfl
@[simp] theorem resetCommand_out (s : State) : (resetCommand s).out = ResultRegs.absent := rfl
@[simp] theorem resetCommand_key (s : State) : (resetCommand s).key = KeyTables.reset := rfl
@[simp] theorem resetCommand_irqEn (s : State) : (resetCommand s).irqEn = 0#3 := rfl
@[simp] theorem resetCommand_irqStatus (s : State) : (resetCommand s).irqStatus = 0#3 ||| completionEvents .ok := rfl
@[simp] theorem resetCommand_rng (s : State) : (resetCommand s).rng = rngReset := rfl
@[simp] theorem resetCommand_mem (s : State) : (resetCommand s).mem = s.mem := rfl
@[simp] theorem resetCommand_engine (s : State) : (resetCommand s).engine = .idle := rfl
@[simp] theorem resetCommand_keySrcEpoch (s : State) : (resetCommand s).keySrcEpoch = s.keySrcEpoch := rfl
@[simp] theorem resetCommand_dstEpoch (s : State) : (resetCommand s).dstEpoch = s.dstEpoch := rfl
@[simp] theorem resetCommand_draws (s : State) : (resetCommand s).draws = s.draws := rfl
@[simp] theorem resetCommand_queue (s : State) : (resetCommand s).queue = s.queue := rfl
@[simp] theorem resetCommand_port (s : State) : (resetCommand s).port = s.port := rfl

@[simp] theorem discardKey_state (k : KeyTables) : (discardKey k).state = k.state := rfl
@[simp] theorem discardKey_defaultKey (k : KeyTables) : (discardKey k).defaultKey = k.defaultKey := rfl
@[simp] theorem discardKey_lineInvalid (k : KeyTables) : (discardKey k).lineInvalid = k.lineInvalid := rfl
@[simp] theorem discardKey_dictFull (k : KeyTables) : (discardKey k).dictFull = k.dictFull := rfl
@[simp] theorem discardKey_customCount (k : KeyTables) : (discardKey k).customCount = k.customCount := rfl
@[simp] theorem discardKey_leafCount (k : KeyTables) : (discardKey k).leafCount = k.leafCount := rfl
@[simp] theorem discardKey_invalidLines (k : KeyTables) : (discardKey k).invalidLines = k.invalidLines := rfl
@[simp] theorem discardKey_fullLines (k : KeyTables) : (discardKey k).fullLines = k.fullLines := rfl
@[simp] theorem discardKey_minLen (k : KeyTables) : (discardKey k).minLen = k.minLen := rfl
@[simp] theorem discardKey_maxLen (k : KeyTables) : (discardKey k).maxLen = k.maxLen := rfl
@[simp] theorem discardKey_infoCount (k : KeyTables) : (discardKey k).infoCount = k.infoCount := rfl
@[simp] theorem discardKey_dict (k : KeyTables) : (discardKey k).dict = [] := rfl
@[simp] theorem discardKey_pool (k : KeyTables) : (discardKey k).pool = [] := rfl
@[simp] theorem discardKey_inset (k : KeyTables) : (discardKey k).inset = [] := rfl
@[simp] theorem discardKey_root (k : KeyTables) : (discardKey k).root = k.root := rfl
@[simp] theorem discardKey_ct (k : KeyTables) : (discardKey k).ct = [] := rfl

@[simp] theorem withDictionary_state (n : Nat) (b : DictBuild) (k : KeyTables) : (withDictionary n b k).state = k.state := rfl
@[simp] theorem withDictionary_defaultKey (n : Nat) (b : DictBuild) (k : KeyTables) : (withDictionary n b k).defaultKey = k.defaultKey := rfl
@[simp] theorem withDictionary_lineInvalid (n : Nat) (b : DictBuild) (k : KeyTables) : (withDictionary n b k).lineInvalid = decide (0 < b.invalidLines) := rfl
@[simp] theorem withDictionary_dictFull (n : Nat) (b : DictBuild) (k : KeyTables) : (withDictionary n b k).dictFull = decide (0 < b.fullLines) := rfl
@[simp] theorem withDictionary_customCount (n : Nat) (b : DictBuild) (k : KeyTables) : (withDictionary n b k).customCount = BitVec.ofNat 8 n := rfl
@[simp] theorem withDictionary_leafCount (n : Nat) (b : DictBuild) (k : KeyTables) : (withDictionary n b k).leafCount = k.leafCount := rfl
@[simp] theorem withDictionary_invalidLines (n : Nat) (b : DictBuild) (k : KeyTables) : (withDictionary n b k).invalidLines = BitVec.ofNat 16 b.invalidLines := rfl
@[simp] theorem withDictionary_fullLines (n : Nat) (b : DictBuild) (k : KeyTables) : (withDictionary n b k).fullLines = BitVec.ofNat 16 b.fullLines := rfl
@[simp] theorem withDictionary_minLen (n : Nat) (b : DictBuild) (k : KeyTables) : (withDictionary n b k).minLen = k.minLen := rfl
@[simp] theorem withDictionary_maxLen (n : Nat) (b : DictBuild) (k : KeyTables) : (withDictionary n b k).maxLen = k.maxLen := rfl
@[simp] theorem withDictionary_infoCount (n : Nat) (b : DictBuild) (k : KeyTables) : (withDictionary n b k).infoCount = k.infoCount := rfl
@[simp] theorem withDictionary_dict (n : Nat) (b : DictBuild) (k : KeyTables) : (withDictionary n b k).dict = b.dict := rfl
@[simp] theorem withDictionary_pool (n : Nat) (b : DictBuild) (k : KeyTables) : (withDictionary n b k).pool = k.pool := rfl
@[simp] theorem withDictionary_inset (n : Nat) (b : DictBuild) (k : KeyTables) : (withDictionary n b k).inset = k.inset := rfl
@[simp] theorem withDictionary_root (n : Nat) (b : DictBuild) (k : KeyTables) : (withDictionary n b k).root = k.root := rfl
@[simp] theorem withDictionary_ct (n : Nat) (b : DictBuild) (k : KeyTables) : (withDictionary n b k).ct = k.ct := rfl

@[simp] theorem withTree_state (t : TreeState) (k : KeyTables) : (withTree t k).state = k.state := rfl
@[simp] theorem withTree_defaultKey (t : TreeState) (k : KeyTables) : (withTree t k).defaultKey = k.defaultKey := rfl
@[simp] theorem withTree_lineInvalid (t : TreeState) (k : KeyTables) : (withTree t k).lineInvalid = k.lineInvalid := rfl
@[simp] theorem withTree_dictFull (t : TreeState) (k : KeyTables) : (withTree t k).dictFull = k.dictFull := rfl
@[simp] theorem withTree_customCount (t : TreeState) (k : KeyTables) : (withTree t k).customCount = k.customCount := rfl
@[simp] theorem withTree_leafCount (t : TreeState) (k : KeyTables) : (withTree t k).leafCount = k.leafCount := rfl
@[simp] theorem withTree_invalidLines (t : TreeState) (k : KeyTables) : (withTree t k).invalidLines = k.invalidLines := rfl
@[simp] theorem withTree_fullLines (t : TreeState) (k : KeyTables) : (withTree t k).fullLines = k.fullLines := rfl
@[simp] theorem withTree_minLen (t : TreeState) (k : KeyTables) : (withTree t k).minLen = k.minLen := rfl
@[simp] theorem withTree_maxLen (t : TreeState) (k : KeyTables) : (withTree t k).maxLen = k.maxLen := rfl
@[simp] theorem withTree_infoCount (t : TreeState) (k : KeyTables) : (withTree t k).infoCount = k.infoCount := rfl
@[simp] theorem withTree_dict (t : TreeState) (k : KeyTables) : (withTree t k).dict = k.dict := rfl
@[simp] theorem withTree_pool (t : TreeState) (k : KeyTables) : (withTree t k).pool = t.pool := rfl
@[simp] theorem withTree_inset (t : TreeState) (k : KeyTables) : (withTree t k).inset = t.inset := rfl
@[simp] theorem withTree_root (t : TreeState) (k : KeyTables) : (withTree t k).root = t.root := rfl
@[simp] theorem withTree_ct (t : TreeState) (k : KeyTables) : (withTree t k).ct = k.ct := rfl

@[simp] theorem withCodes_state (ct : List CodeEntry) (k : KeyTables) : (withCodes ct k).state = k.state := rfl
@[simp] theorem withCodes_defaultKey (ct : List CodeEntry) (k : KeyTables) : (withCodes ct k).defaultKey = k.defaultKey := rfl
@[simp] theorem withCodes_lineInvalid (ct : List CodeEntry) (k : KeyTables) : (withCodes ct k).lineInvalid = k.lineInvalid := rfl
@[simp] theorem withCodes_dictFull (ct : List CodeEntry) (k : KeyTables) : (withCodes ct k).dictFull = k.dictFull := rfl
@[simp] theorem withCodes_customCount (ct : List CodeEntry) (k : KeyTables) : (withCodes ct k).customCount = k.customCount := rfl
@[simp] theorem withCodes_leafCount (ct : List CodeEntry) (k : KeyTables) : (withCodes ct k).leafCount = k.leafCount := rfl
@[simp] theorem withCodes_invalidLines (ct : List CodeEntry) (k : KeyTables) : (withCodes ct k).invalidLines = k.invalidLines := rfl
@[simp] theorem withCodes_fullLines (ct : List CodeEntry) (k : KeyTables) : (withCodes ct k).fullLines = k.fullLines := rfl
@[simp] theorem withCodes_minLen (ct : List CodeEntry) (k : KeyTables) : (withCodes ct k).minLen = BitVec.ofNat 8 (minCodeLen ct) := rfl
@[simp] theorem withCodes_maxLen (ct : List CodeEntry) (k : KeyTables) : (withCodes ct k).maxLen = BitVec.ofNat 8 (maxLenOfCodes ct) := rfl
@[simp] theorem withCodes_infoCount (ct : List CodeEntry) (k : KeyTables) : (withCodes ct k).infoCount = BitVec.ofNat 9 ct.length := rfl
@[simp] theorem withCodes_dict (ct : List CodeEntry) (k : KeyTables) : (withCodes ct k).dict = k.dict := rfl
@[simp] theorem withCodes_pool (ct : List CodeEntry) (k : KeyTables) : (withCodes ct k).pool = k.pool := rfl
@[simp] theorem withCodes_inset (ct : List CodeEntry) (k : KeyTables) : (withCodes ct k).inset = k.inset := rfl
@[simp] theorem withCodes_root (ct : List CodeEntry) (k : KeyTables) : (withCodes ct k).root = k.root := rfl
@[simp] theorem withCodes_ct (ct : List CodeEntry) (k : KeyTables) : (withCodes ct k).ct = ct := rfl

@[simp] theorem finishKey_state (implicit : Bool) (n : Nat) (k : KeyTables) : (finishKey implicit n k).state = .valid := rfl
@[simp] theorem finishKey_defaultKey (implicit : Bool) (n : Nat) (k : KeyTables) : (finishKey implicit n k).defaultKey = implicit := rfl
@[simp] theorem finishKey_lineInvalid (implicit : Bool) (n : Nat) (k : KeyTables) : (finishKey implicit n k).lineInvalid = k.lineInvalid := rfl
@[simp] theorem finishKey_dictFull (implicit : Bool) (n : Nat) (k : KeyTables) : (finishKey implicit n k).dictFull = k.dictFull := rfl
@[simp] theorem finishKey_customCount (implicit : Bool) (n : Nat) (k : KeyTables) : (finishKey implicit n k).customCount = k.customCount := rfl
@[simp] theorem finishKey_leafCount (implicit : Bool) (n : Nat) (k : KeyTables) : (finishKey implicit n k).leafCount = BitVec.ofNat 9 n := rfl
@[simp] theorem finishKey_invalidLines (implicit : Bool) (n : Nat) (k : KeyTables) : (finishKey implicit n k).invalidLines = k.invalidLines := rfl
@[simp] theorem finishKey_fullLines (implicit : Bool) (n : Nat) (k : KeyTables) : (finishKey implicit n k).fullLines = k.fullLines := rfl
@[simp] theorem finishKey_minLen (implicit : Bool) (n : Nat) (k : KeyTables) : (finishKey implicit n k).minLen = k.minLen := rfl
@[simp] theorem finishKey_maxLen (implicit : Bool) (n : Nat) (k : KeyTables) : (finishKey implicit n k).maxLen = k.maxLen := rfl
@[simp] theorem finishKey_infoCount (implicit : Bool) (n : Nat) (k : KeyTables) : (finishKey implicit n k).infoCount = k.infoCount := rfl
@[simp] theorem finishKey_dict (implicit : Bool) (n : Nat) (k : KeyTables) : (finishKey implicit n k).dict = k.dict := rfl
@[simp] theorem finishKey_pool (implicit : Bool) (n : Nat) (k : KeyTables) : (finishKey implicit n k).pool = k.pool := rfl
@[simp] theorem finishKey_inset (implicit : Bool) (n : Nat) (k : KeyTables) : (finishKey implicit n k).inset = k.inset := rfl
@[simp] theorem finishKey_root (implicit : Bool) (n : Nat) (k : KeyTables) : (finishKey implicit n k).root = k.root := rfl
@[simp] theorem finishKey_ct (implicit : Bool) (n : Nat) (k : KeyTables) : (finishKey implicit n k).ct = k.ct := rfl

@[simp] theorem failKey_state (k : KeyTables) : (failKey k).state = .failed := rfl
@[simp] theorem failKey_defaultKey (k : KeyTables) : (failKey k).defaultKey = false := rfl
@[simp] theorem failKey_lineInvalid (k : KeyTables) : (failKey k).lineInvalid = k.lineInvalid := rfl
@[simp] theorem failKey_dictFull (k : KeyTables) : (failKey k).dictFull = k.dictFull := rfl
@[simp] theorem failKey_customCount (k : KeyTables) : (failKey k).customCount = k.customCount := rfl
@[simp] theorem failKey_leafCount (k : KeyTables) : (failKey k).leafCount = 0#9 := rfl
@[simp] theorem failKey_invalidLines (k : KeyTables) : (failKey k).invalidLines = k.invalidLines := rfl
@[simp] theorem failKey_fullLines (k : KeyTables) : (failKey k).fullLines = k.fullLines := rfl
@[simp] theorem failKey_minLen (k : KeyTables) : (failKey k).minLen = 0#8 := rfl
@[simp] theorem failKey_maxLen (k : KeyTables) : (failKey k).maxLen = 0#8 := rfl
@[simp] theorem failKey_infoCount (k : KeyTables) : (failKey k).infoCount = 0#9 := rfl
@[simp] theorem failKey_dict (k : KeyTables) : (failKey k).dict = k.dict := rfl
@[simp] theorem failKey_pool (k : KeyTables) : (failKey k).pool = k.pool := rfl
@[simp] theorem failKey_inset (k : KeyTables) : (failKey k).inset = k.inset := rfl
@[simp] theorem failKey_root (k : KeyTables) : (failKey k).root = k.root := rfl
@[simp] theorem failKey_ct (k : KeyTables) : (failKey k).ct = [] := rfl

@[simp] theorem removeNode_pool (t : TreeState) (a : Nat) : (removeNode t a).pool = t.pool := rfl
@[simp] theorem removeNode_inset (t : TreeState) (a : Nat) : (removeNode t a).inset = t.inset.set a false := rfl
@[simp] theorem removeNode_root (t : TreeState) (a : Nat) : (removeNode t a).root = t.root := rfl
@[simp] theorem mergeNodes_pool (t : TreeState) (a b : Nat) : (mergeNodes t a b).pool = t.pool ++ [.internal (nodeWeight (nodeAt t.pool a) + nodeWeight (nodeAt t.pool b)) a b] := rfl
@[simp] theorem mergeNodes_inset (t : TreeState) (a b : Nat) : (mergeNodes t a b).inset = t.inset ++ [true] := rfl
@[simp] theorem mergeNodes_root (t : TreeState) (a b : Nat) : (mergeNodes t a b).root = t.root := rfl
@[simp] theorem makeLeaves_pool (d : List DictEntry) (r : Nat) : (makeLeaves d r).pool = leavesFrom 0 d := rfl
@[simp] theorem makeLeaves_inset (d : List DictEntry) (r : Nat) : (makeLeaves d r).inset = List.replicate (leavesFrom 0 d).length true := rfl
@[simp] theorem makeLeaves_root (d : List DictEntry) (r : Nat) : (makeLeaves d r).root = r := rfl

end Sys2Proof.Machine
end

