-- ==== Sys2Proof/Laws/Ops.lean ====
section
/-! SUPPORT. What each shared operation of Machine/Ops.lean does, said once. -/

namespace Sys2Proof.Machine

/-- The completion leaves what R182 says. -/
theorem complete_completedWith (c : ErrCode) (s : State) : CompletedWith c s (complete c s) :=
  ⟨rfl, rfl, rfl, rfl, by cases c <;> rfl⟩

/-- The completion keeps what belongs to the host. -/
theorem complete_hostSideSame (c : ErrCode) (s : State) : HostSideSame s (complete c s) :=
  ⟨rfl, rfl, rfl, rfl, rfl, rfl, rfl, rfl⟩

@[simp] theorem byteAt_complete (c : ErrCode) (s : State) (a : Nat) :
    byteAt (complete c s) a = byteAt s a := rfl

@[simp] theorem busy_complete (c : ErrCode) (s : State) : (complete c s).busy = false := rfl

/-- After a failed PACK or UNPACK a byte of DSTMEM is a fresh draw; every other byte is as before. -/
theorem byteAt_noResult (s : State) (a : Nat) :
    byteAt (noResult s) a = if InDst s.cfg a then Config.freeByte s.draws a else byteAt s a := by
  simp only [byteAt, epochAt, noResult_mem, memRead_memForget, noResult_cfg, noResult_dstEpoch,
    noResult_keySrcEpoch]
  by_cases h : InDst s.cfg a
  · simp [h]
  · simp [h]

/-- A result that fits puts its bytes at DSTMEM[0..) and fresh draws behind them; every other byte is as
before. -/
theorem byteAt_writeResult (bytes : List Byte) (regs : ResultRegs) (s : State) (a : Nat)
    (hfit : bytes.length ≤ s.cfg.dstMax) :
    byteAt (writeResult bytes regs s) a =
      if InDst s.cfg a then (bytes[a - dstBase]?).getD (Config.freeByte s.draws a) else byteAt s a := by
  simp only [byteAt, epochAt, writeResult_mem, memRead_memWriteBytes, memRead_memForget, writeResult_cfg,
    writeResult_dstEpoch, writeResult_keySrcEpoch]
  by_cases h : InDst s.cfg a
  · by_cases hb : a < dstBase + bytes.length
    · have hget : a - dstBase < bytes.length := by have := h.1; omega
      simp [h, hb, List.getElem?_eq_getElem hget]
    · have hnone : bytes[a - dstBase]? = none := List.getElem?_eq_none (by have := h.1; omega)
      simp [h, hb, hnone]
  · have hb : ¬ (dstBase ≤ a ∧ a < dstBase + bytes.length) := by
      intro hb
      exact h ⟨hb.1, by omega⟩
    simp [h, hb]

/-- A failed PACK or UNPACK leaves every byte outside DSTMEM as before. -/
theorem noResult_outsideDstSame (s : State) : OutsideDstSame s (noResult s) := by
  intro a ha
  rw [byteAt_noResult, if_neg ha]

/-- A result that fits leaves every byte outside DSTMEM as before. -/
theorem writeResult_outsideDstSame (bytes : List Byte) (regs : ResultRegs) (s : State)
    (hfit : bytes.length ≤ s.cfg.dstMax) : OutsideDstSame s (writeResult bytes regs s) := by
  intro a ha
  rw [byteAt_writeResult _ _ _ _ hfit, if_neg ha]

/-- An error entry is the completion of the failure path's state. -/
theorem raiseError_eq (e : ErrCode) (f : State → State) (s : State) : raiseError e f s = complete e (f s) :=
  rfl

/-- RESET keeps every byte of memory. -/
theorem resetKept_memorySame (s : State) : MemorySame s (resetState true s) :=
  fun a => byteAt_congr rfl rfl rfl rfl a

/-- After a hardware reset every byte of memory is a fresh draw. -/
theorem byteAt_resetHard (s : State) (a : Nat) :
    byteAt (resetState false s) a = Config.freeByte s.draws a := by
  have h : epochAt (resetState false s) a = s.draws := by
    unfold epochAt
    split <;> rfl
  simp [byteAt, h]

/-- Every pool of NODE_CAP nodes has indices of IDX_BITS bits (00_scope.md R8). -/
theorem nodeCap_lt {p : Params} (h : paramsInRange p = true) : nodeCap p < 2 ^ idxBits := by
  simp only [paramsInRange, Bool.and_eq_true, decide_eq_true_eq] at h
  simp only [nodeCap, dictCap, byteEntries, idxBits]
  omega

/-- So every child index of tables that fit has IDX_BITS bits. -/
theorem TablesFit.child_lt {p : Params} {k : KeyTables} (hp : paramsInRange p = true) (h : TablesFit p k)
    {i : Nat} {w : Word} {l r : Nat} (hi : nodeAt k.pool i = .internal w l r) :
    l < 2 ^ idxBits ∧ r < 2 ^ idxBits := by
  have hlt : i < k.pool.length := by
    apply Nat.lt_of_not_le
    intro hle
    simp [nodeAt, List.getElem?_eq_none hle] at hi
  have hc := h.children i w l r hi
  have hcap := nodeCap_lt hp
  have hpool := h.pool
  omega

/-- Idle and running are the two engine states. -/
theorem busy_iff (s : State) : s.busy = true ↔ ∃ w n, s.engine = .running w n := by
  cases h : s.engine <;> simp [State.busy, h]

end Sys2Proof.Machine
end

