-- ==== Sys2Proof/Laws/Commands.lean ====
section
/-! SUPPORT. Everything an install, the key check, PACK, UNPACK and a step can do, one inversion lemma each. -/

namespace Sys2Proof.Machine

/-- The result of an install: a fatal error with no code-table entry left, or a VALID key. -/
theorem installKey_cases (p : Params) (t : List Byte) (implicit : Bool) (k : KeyTables) :
    (∃ e, (installKey p t implicit k).2 = .error e ∧ (installKey p t implicit k).1.state = .failed ∧
      (installKey p t implicit k).1.defaultKey = false ∧ NoCodes (installKey p t implicit k).1) ∨
    (∃ tree ct, treeBuild (nodeCap p) (dictBuild p t).dict k.root = (tree, none) ∧
      codeGen tree.pool (dictBuild p t).dict tree.root = .ok ct ∧
      (installKey p t implicit k).2 =
        .ok (installCode (dictBuild p t).invalidLines (dictBuild p t).fullLines) ∧
      (installKey p t implicit k).1 =
        finishKey implicit (leafCountOf (dictBuild p t).dict) (withCodes ct (withTree tree
          (withDictionary (customCountOf p t) (dictBuild p t) (discardKey k))))) := by
  rcases htree : treeBuild (nodeCap p) (dictBuild p t).dict k.root with ⟨tree, _ | e⟩
  · cases hcode : codeGen tree.pool (dictBuild p t).dict tree.root with
    | error e =>
      left
      exact ⟨e, by simp [installKey, htree, finishInstall, hcode],
        by simp [installKey, htree, finishInstall, hcode],
        by simp [installKey, htree, finishInstall, hcode],
        by constructor <;> simp [installKey, htree, finishInstall, hcode]⟩
    | ok ct =>
      right
      exact ⟨tree, ct, rfl, hcode, by simp [installKey, htree, finishInstall, hcode],
        by simp [installKey, htree, finishInstall, hcode]⟩
  · left
    exact ⟨e, by simp [installKey, htree], by simp [installKey, htree], by simp [installKey, htree],
      by constructor <;> simp [installKey, htree]⟩

/-- An install whose tree and codes stand. -/
theorem installKey_ok {p : Params} {t : List Byte} {k : KeyTables} {tree : TreeState} {ct : List CodeEntry}
    (htree : treeBuild (nodeCap p) (dictBuild p t).dict k.root = (tree, none))
    (hcode : codeGen tree.pool (dictBuild p t).dict tree.root = .ok ct) (implicit : Bool) :
    installKey p t implicit k =
      (finishKey implicit (leafCountOf (dictBuild p t).dict) (withCodes ct (withTree tree
        (withDictionary (customCountOf p t) (dictBuild p t) (discardKey k)))),
       .ok (installCode (dictBuild p t).invalidLines (dictBuild p t).fullLines)) := by
  simp [installKey, htree, finishInstall, hcode]

/-- What every install leaves of the line counts (40_install.md R103), successful or not. -/
theorem installKey_counts (p : Params) (t : List Byte) (implicit : Bool) (k : KeyTables) :
    let k' := (installKey p t implicit k).1
    k'.customCount = BitVec.ofNat 8 (customCountOf p t) ∧
      k'.invalidLines = BitVec.ofNat 16 (dictBuild p t).invalidLines ∧
      k'.fullLines = BitVec.ofNat 16 (dictBuild p t).fullLines ∧
      k'.lineInvalid = decide (0 < (dictBuild p t).invalidLines) ∧
      k'.dictFull = decide (0 < (dictBuild p t).fullLines) ∧ k'.dict = (dictBuild p t).dict := by
  rcases htree : treeBuild (nodeCap p) (dictBuild p t).dict k.root with ⟨tree, _ | e⟩
  · cases hcode : codeGen tree.pool (dictBuild p t).dict tree.root <;>
      simp [installKey, htree, finishInstall, hcode]
  · simp [installKey, htree]

/-- What INSTALL can do. -/
theorem installCommand_cases (s : State) :
    (s.cfg.keyMax < s.keyLen.toNat ∧ installCommand s = complete .capacityError s) ∨
    (s.keyLen.toNat ≤ s.cfg.keyMax ∧
      installCommand s =
        complete (reportedCode (installKey s.cfg (keyText s) false s.key).2)
          { s with key := (installKey s.cfg (keyText s) false s.key).1 }) := by
  by_cases h : s.cfg.keyMax < s.keyLen.toNat
  · exact .inl ⟨h, by simp [installCommand, h, raiseError, noFailurePath]⟩
  · exact .inr ⟨by omega, by simp [installCommand, h]⟩

/-- What the key check can do. -/
theorem ensureKey_cases (s : State) :
    (s.key.state = .valid ∧ ensureKey s = (s, none)) ∨
    (s.key.state = .failed ∧ ensureKey s = (s, some .notReady)) ∨
    (s.key.state = .none ∧
      (ensureKey s).1 = { s with key := (installKey s.cfg s.cfg.defaultKey true s.key).1 } ∧
      (((installKey s.cfg s.cfg.defaultKey true s.key).1.state = .valid ∧ (ensureKey s).2 = none) ∨
       (∃ e, (installKey s.cfg s.cfg.defaultKey true s.key).2 = .error e ∧
          (installKey s.cfg s.cfg.defaultKey true s.key).1.state = .failed ∧
          (ensureKey s).2 = some e))) := by
  cases hs : s.key.state with
  | valid => exact .inl ⟨rfl, by simp [ensureKey, hs]⟩
  | failed => exact .inr (.inl ⟨rfl, by simp [ensureKey, hs]⟩)
  | none =>
    refine .inr (.inr ⟨rfl, by simp [ensureKey, hs], ?_⟩)
    rcases installKey_cases s.cfg s.cfg.defaultKey true s.key with ⟨e, h2, h1, -⟩ | ⟨tree, ct, -, -, h2, h1⟩
    · exact .inr ⟨e, h2, h1, by simp [ensureKey, hs, h2]⟩
    · exact .inl ⟨by simp [h1], by simp [ensureKey, hs, h2]⟩

/-- The key check of a core without a key, when the install of the default key succeeds. -/
theorem ensureKey_installed {s : State} {k : KeyTables} {c : ErrCode} (h0 : s.key.state = .none)
    (h : installKey s.cfg s.cfg.defaultKey true s.key = (k, .ok c)) : ensureKey s = ({ s with key := k }, none) := by
  simp [ensureKey, h0, h]

/-- What PACK can do. -/
theorem packCommand_cases (s : State) :
    (s.cfg.srcMax < s.srcLen.toNat ∧ packCommand s = complete .capacityError (noResult s)) ∨
    (s.srcLen.toNat ≤ s.cfg.srcMax ∧
      ((∃ e, (ensureKey s).2 = some e ∧ packCommand s = complete e (noResult (ensureKey s).1)) ∨
       ((ensureKey s).2 = none ∧ packCommand s = packPayload (ensureKey s).1))) := by
  by_cases h : s.cfg.srcMax < s.srcLen.toNat
  · exact .inl ⟨h, by simp [packCommand, h, raiseError]⟩
  · refine .inr ⟨by omega, ?_⟩
    rcases hk : ensureKey s with ⟨s1, _ | e⟩
    · exact .inr ⟨rfl, by simp [packCommand, h, hk]⟩
    · exact .inl ⟨e, rfl, by simp [packCommand, h, hk, raiseError]⟩

/-- What PACK can do once a key is VALID. -/
theorem packPayload_cases (s : State) :
    (∃ e, packPayload s = complete e (noResult s) ∧
      (tokenize s.key.ct s.cfg.dstMax (sourceBytes s) = .error e ∨ e = .capacityError)) ∨
    (∃ bits, tokenize s.key.ct s.cfg.dstMax (sourceBytes s) = .ok bits ∧
      packedLength bits.length ≤ s.cfg.dstMax ∧ packPayload s = packBits bits s) := by
  cases ht : tokenize s.key.ct s.cfg.dstMax (sourceBytes s) with
  | error e => exact .inl ⟨e, by simp [packPayload, ht, raiseError], .inl rfl⟩
  | ok bits =>
    by_cases h : s.cfg.dstMax < packedLength bits.length
    · exact .inl ⟨.capacityError, by simp [packPayload, ht, packBits, h, raiseError], .inr rfl⟩
    · exact .inr ⟨bits, rfl, by omega, by simp [packPayload, ht]⟩

/-- What UNPACK can do. -/
theorem unpackCommand_cases (s : State) :
    (s.cfg.srcMax < s.srcLen.toNat ∧ unpackCommand s = complete .capacityError (noResult s)) ∨
    (s.srcLen.toNat ≤ s.cfg.srcMax ∧
      ((∃ e, (ensureKey s).2 = some e ∧ unpackCommand s = complete e (noResult (ensureKey s).1)) ∨
       ((ensureKey s).2 = none ∧ unpackCommand s = unpackSource (ensureKey s).1))) := by
  by_cases h : s.cfg.srcMax < s.srcLen.toNat
  · exact .inl ⟨h, by simp [unpackCommand, h, raiseError]⟩
  · refine .inr ⟨by omega, ?_⟩
    rcases hk : ensureKey s with ⟨s1, _ | e⟩
    · exact .inr ⟨rfl, by simp [unpackCommand, h, hk]⟩
    · exact .inl ⟨e, rfl, by simp [unpackCommand, h, hk, raiseError]⟩

/-- What UNPACK can do once a key is VALID. -/
theorem unpackSource_cases (s : State) :
    (sourceBytes s = emptyPacket ∧
      unpackSource s = complete .ok (writeResult [] ResultRegs.absent s)) ∨
    (∃ e, unpackSource s = complete e (noResult s)) ∨
    (∃ f w, checkFrame (sourceBytes s) = .ok f ∧ walk s.key s.cfg.dstMax (frameBits f) = .ok w ∧
      unpackSource s = complete .ok (writeResult w.output (unpackRegs f.pad w) s)) := by
  by_cases h0 : sourceBytes s = emptyPacket
  · exact .inl ⟨h0, by simp [unpackSource, h0]⟩
  · refine .inr ?_
    cases hf : checkFrame (sourceBytes s) with
    | error e => exact .inl ⟨e, by simp [unpackSource, h0, hf, raiseError]⟩
    | ok f =>
      cases hw : walk s.key s.cfg.dstMax (frameBits f) with
      | error e => exact .inl ⟨e, by simp [unpackSource, h0, hf, unpackFrame, hw, raiseError]⟩
      | ok w => exact .inr ⟨f, w, rfl, hw, by simp [unpackSource, h0, hf, unpackFrame, hw]⟩

/-- Every instruction answers a next state (60_exceptions.md R220). -/
theorem exec_next (i : Instr) (s : State) : ∃ t, exec i s = .next t := by
  cases i <;> exact ⟨_, rfl⟩

/-- What a step can do: complete the running command, or take the outside world's turn. -/
theorem step_cases (s : State) :
    (∃ w, s.engine = .running w 0 ∧ s.queue.head? ≠ some .hardReset ∧ step s = exec (decodeWord w) s) ∨
    (((∀ w, s.engine ≠ .running w 0) ∨ s.queue.head? = some .hardReset) ∧ step s = .next (otherStep s)) := by
  by_cases hr : s.queue.head? = some .hardReset
  · refine .inr ⟨.inr hr, ?_⟩
    rcases h : s.engine with _ | ⟨w, _ | k⟩ <;> simp [step, dueCommand, resetNext, h, hr]
  · rcases h : s.engine with _ | ⟨w, _ | k⟩
    · exact .inr ⟨.inl (by simp), by simp [step, dueCommand, h]⟩
    · exact .inl ⟨w, rfl, hr, by simp [step, dueCommand, resetNext, h, hr]⟩
    · exact .inr ⟨.inl (by simp), by simp [step, dueCommand, h]⟩

/-- No hardware reset stands first in what `withoutReset` leaves. -/
theorem withoutReset_head (q : List HostOp) : (withoutReset q).head? ≠ some .hardReset := by
  induction q with
  | nil => simp [withoutReset]
  | cons op q ih =>
    by_cases h : op = .hardReset
    · simpa [withoutReset, h] using ih
    · simp [withoutReset, h]

/-- What the outside world's turn can do. -/
theorem hostTurn_cases (s : State) :
    (s.queue = [] ∧ hostTurn s = s) ∨
    (∃ a n q, s.queue = .read a n :: q ∧ hostTurn s = hostRead a n { s with queue := q }) ∨
    (∃ a n v q, s.queue = .write a n v :: q ∧ hostTurn s = hostWrite a n v { s with queue := q }) ∨
    (∃ q, s.queue = .hardReset :: q ∧ hostTurn s = resetState false { s with queue := q }) ∨
    (∃ q, s.queue = .wait :: q ∧ hostTurn s = pollStatus s q) ∨
    (∃ q, s.queue = .readDst :: q ∧ hostTurn s = readResult s q) := by
  rcases h : s.queue with _ | ⟨op, q⟩
  · exact .inl ⟨rfl, by simp [hostTurn, h]⟩
  · cases op with
    | read a n => exact .inr (.inl ⟨a, n, q, rfl, by simp [hostTurn, h]⟩)
    | write a n v => exact .inr (.inr (.inl ⟨a, n, v, q, rfl, by simp [hostTurn, h]⟩))
    | hardReset => exact .inr (.inr (.inr (.inl ⟨q, rfl, by simp [hostTurn, h, hardReset]⟩)))
    | wait => exact .inr (.inr (.inr (.inr (.inl ⟨q, rfl, by simp [hostTurn, h]⟩))))
    | readDst => exact .inr (.inr (.inr (.inr (.inr ⟨q, rfl, by simp [hostTurn, h]⟩))))

end Sys2Proof.Machine
end

