-- ==== Sys2Proof/Laws/PerInstr.lean ====
section
/-! SUPPORT. Statements about every instruction as syntax, one lemma per constructor. -/

namespace Sys2Proof.Laws.TableRow

/-- The command word of a well-formed instruction matches that instruction's row of the opcode table and no
row before it (spec/opcode_table.json, 30_encoding.md R81, R82). -/
def Statement (i : Instr) : Prop := i.wellFormed = true → firstRow (encode i) = some (opcodeRow i)

theorem install : Statement .install := fun _ => by decide

theorem pack : Statement .pack := fun _ => by decide

theorem unpack : Statement .unpack := fun _ => by decide

theorem reset : Statement .reset := fun _ => by decide

/-- OP of a word put together from its fields. -/
theorem opField_append (zero : BitVec 28) (op : BitVec 4) : opField (zero ++ op) = op := by
  apply BitVec.eq_of_getLsbD_eq
  intro i hi
  rw [opField, BitVec.getLsbD_extractLsb', Nat.zero_add]
  exact (congrArg (decide (i < 4) && ·) BitVec.getLsbD_append).trans (by simp [hi])

/-- ZERO of a word put together from its fields. -/
theorem zeroField_append (zero : BitVec 28) (op : BitVec 4) : zeroField (zero ++ op) = zero := by
  apply BitVec.eq_of_getLsbD_eq
  intro i hi
  have : ¬ 4 + i < 4 := by omega
  rw [zeroField, BitVec.getLsbD_extractLsb']
  exact (congrArg (decide (i < 28) && ·) BitVec.getLsbD_append).trans (by simp [hi, this])

/-- The word of a well-formed illegal instruction is the word of no opcode of the map. -/
theorem append_ne_of_wellFormed {op : BitVec 4} {zero : BitVec 28}
    (h : (Instr.illegal op zero).wellFormed = true) (c : BitVec 4) (hc : c ∈ legalOps) :
    (zero ++ op : Word) ≠ (0#28 ++ c : Word) := by
  intro heq
  have hop : op = c := by simpa [opField_append] using congrArg opField heq
  have hzero : zero = 0#28 := by simpa [zeroField_append] using congrArg zeroField heq
  subst hop hzero
  simp [Instr.wellFormed] at h
  exact h hc

theorem illegal (op : BitVec 4) (zero : BitVec 28) : Statement (.illegal op zero) := by
  intro h
  have h1 : ((zero ++ op : Word) == 1#32) = false := by
    simpa using append_ne_of_wellFormed h 0x1#4 (by decide)
  have h2 : ((zero ++ op : Word) == 2#32) = false := by
    simpa using append_ne_of_wellFormed h 0x2#4 (by decide)
  have h3 : ((zero ++ op : Word) == 3#32) = false := by
    simpa using append_ne_of_wellFormed h 0x3#4 (by decide)
  have h15 : ((zero ++ op : Word) == 15#32) = false := by
    simpa using append_ne_of_wellFormed h 0xF#4 (by decide)
  have hall : ∀ w : Word, w &&& 0xFFFFFFFF#32 = w := fun w => by
    have : (0xFFFFFFFF#32 : Word) = BitVec.allOnes 32 := by decide
    rw [this, BitVec.and_allOnes]
  simp only [firstRow, opcodeTable, List.find?, OpcodeRow.covers, encode, hall, h1, h2, h3, h15, opcodeRow]
  simp

end Sys2Proof.Laws.TableRow
end

