-- ==== Sys2Proof/Laws/Tree.lean ====
section
/-! SUPPORT. The scan of the tree builder over a pool whose first working node is the lightest, the loop over a
pool of rising weights, and the length of a path down a tree. -/

namespace Sys2Proof.Machine

/-- Nothing that is not lighter replaces the best node found so far. -/
theorem scanFrom_keep (j : Nat) (w : Word) : ∀ (pool : List Node) (inset : Bits) (i : Nat),
    (∀ n ∈ pool, w ≤ nodeWeight n) → scanFrom i (some (j, w)) pool inset = some (j, w)
  | [], _, _, _ => rfl
  | _ :: _, [], _, _ => rfl
  | n :: ns, b :: bs, i, h => by
    have hn : ¬ nodeWeight n < w := by
      have := h n List.mem_cons_self
      simpa using this
    have ih := scanFrom_keep j w ns bs (i + 1) (fun m hm => h m (List.mem_cons_of_mem _ hm))
    cases b <;> simp [scanFrom, hn, ih]

/-- A scan over nodes outside the working set finds none. -/
theorem scanFrom_skip (i : Nat) : ∀ (pre post : List Node) (bs : Bits),
    scanFrom i none (pre ++ post) (List.replicate pre.length false ++ bs) =
      scanFrom (i + pre.length) none post bs
  | [], post, bs => by simp
  | n :: pre, post, bs => by
    simp only [List.cons_append, List.length_cons, List.replicate_succ, scanFrom]
    rw [scanFrom_skip (i + 1) pre post bs]
    congr 1
    omega

/-- If the first node of the working set is the lightest of it, the scan finds it. -/
theorem scanMin_first (pre : List Node) (n : Node) (post : List Node) (bs : Bits)
    (h : ∀ m ∈ post, nodeWeight n ≤ nodeWeight m) :
    scanMin (pre ++ n :: post) (List.replicate pre.length false ++ true :: bs) = some pre.length := by
  simp [scanMin, scanFrom_skip, scanFrom, scanFrom_keep _ _ post bs _ h]

/-- An empty working set has no lightest node. -/
theorem scanMin_empty (pool : List Node) :
    scanMin pool (List.replicate pool.length false) = none := by
  have := scanFrom_skip 0 pool [] []
  simp at this
  simp [scanMin, this, scanFrom]

/-- Along a path down from a node the level falls by one a bit at least. -/
theorem reach_level (pool : List Node) (level : Nat → Nat)
    (h : ∀ i w l r, nodeAt pool i = .internal w l r → level l < level i ∧ level r < level i) :
    ∀ (path : Bits) (n i : Nat), reach pool n path = some i → path.length + level i ≤ level n
  | [], n, i, hr => by
    simp only [reach, Option.some.injEq] at hr
    simp [hr]
  | b :: bs, n, i, hr => by
    cases hn : nodeAt pool n with
    | empty => simp [reach, hn, childOf] at hr
    | leaf w d => simp [reach, hn, childOf] at hr
    | internal w l r =>
      have hlr := h n w l r hn
      cases b with
      | false =>
        have := reach_level pool level h bs l i (by simpa [reach, hn, childOf] using hr)
        simp only [List.length_cons]
        omega
      | true =>
        have := reach_level pool level h bs r i (by simpa [reach, hn, childOf] using hr)
        simp only [List.length_cons]
        omega

/-- The working set after the first `k` nodes have left it and `m` are still in it. -/
abbrev leftInset (k m : Nat) : Bits := List.replicate k false ++ List.replicate m true

/-- One more node leaves the working set. -/
theorem leftInset_set (k m : Nat) : (leftInset k (m + 1)).set k false = leftInset (k + 1) m := by
  rw [leftInset, List.set_append_right _ _ (by simp)]
  simp [List.replicate_succ, leftInset]
  rw [← List.cons_append, ← List.replicate_succ, List.replicate_succ', List.append_assoc]
  rfl

/-- A pool in which the merges of `n` leaves follow one another in index order. -/
structure RisingPool (pool : List Node) (n : Nat) : Prop where
  length : pool.length = 2 * n - 1
  sorted : ∀ i j, i ≤ j → j < 2 * n - 1 → nodeWeight (nodeAt pool i) ≤ nodeWeight (nodeAt pool j)
  merged : ∀ j, j + 1 < n → nodeAt pool (n + j) =
    .internal (nodeWeight (nodeAt pool (2 * j)) + nodeWeight (nodeAt pool (2 * j + 1))) (2 * j) (2 * j + 1)

/-- A node of a longer pool. -/
theorem nodeAt_take (pool : List Node) {i m : Nat} (h : i < m) : nodeAt (pool.take m) i = nodeAt pool i := by
  simp [nodeAt, h]

/-- The lightest node of a rising pool is the first still in the working set. -/
theorem RisingPool.scan {pool : List Node} {n : Nat} (h : RisingPool pool n) (k m c : Nat)
    (hk : k < m) (hm : m ≤ 2 * n - 1) : scanMin (pool.take m) (leftInset k (c + 1)) = some k := by
  have hlen := h.length
  obtain ⟨p, hp⟩ : ∃ p, pool.take m = p := ⟨_, rfl⟩
  have hplen : p.length = m := by rw [← hp, List.length_take]; omega
  have hat : ∀ i, i < m → nodeAt p i = nodeAt pool i := fun i hi => by rw [← hp, nodeAt_take pool hi]
  have hsplit : p.take k ++ p[k] :: p.drop (k + 1) = p := by simp
  have hw : ∀ x ∈ p.drop (k + 1), nodeWeight p[k] ≤ nodeWeight x := by
    intro x hx
    obtain ⟨i, hi, rfl⟩ := List.getElem_of_mem hx
    rw [List.length_drop] at hi
    have := h.sorted k (k + 1 + i) (by omega) (by omega)
    rw [← hat _ (by omega), ← hat _ (by omega)] at this
    simpa [nodeAt, List.getElem?_eq_getElem, show k < p.length by omega,
      show k + 1 + i < p.length by omega] using this
  have hmin := scanMin_first (p.take k) p[k] (p.drop (k + 1)) (List.replicate c true) hw
  rw [hsplit, List.length_take_of_le (by omega)] at hmin
  rw [hp, leftInset, List.replicate_succ, hmin]

/-- The loop over a rising pool merges the leaves in index order and ends with an empty working set. -/
theorem RisingPool.mergeLoop {pool : List Node} {n cap r : Nat} (h : RisingPool pool n)
    (hcap : 2 * n - 1 ≤ cap) : ∀ (m j : Nat), j + m + 1 = n →
    mergeLoop cap ⟨pool.take (n + j), leftInset (2 * j) (m + 1), r⟩ (m + 1) =
      (⟨pool, leftInset (2 * n - 1) 0, 2 * n - 2⟩, none)
  | 0, j, hj => by
    have hlen := h.length
    have h1 := h.scan (2 * j) (n + j) 0 (by omega) (by omega)
    have h2 := scanMin_empty pool
    have htake : pool.take (n + j) = pool := List.take_of_length_le (by omega)
    rw [htake] at h1 ⊢
    have hn : 2 * j + 1 = pool.length := by omega
    have h3 : leftInset (2 * j + 1) 0 = List.replicate pool.length false := by simp [leftInset, hn]
    have hroot : 2 * n - 2 = 2 * j := by omega
    have hlast : 2 * n - 1 = 2 * j + 1 := by omega
    simp only [Machine.mergeLoop, h1, removeNode, leftInset_set, h3, h2, hroot, hlast]
  | m + 1, j, hj => by
    have hlen := h.length
    have h1 := h.scan (2 * j) (n + j) (m + 1) (by omega) (by omega)
    have h2 := h.scan (2 * j + 1) (n + j) m (by omega) (by omega)
    have hfull : ¬ (pool.take (n + j)).length = cap := by simp; omega
    have hnode := h.merged j (by omega)
    have hgrow : pool.take (n + j) ++ [nodeAt pool (n + j)] = pool.take (n + (j + 1)) := by
      rw [show n + (j + 1) = n + j + 1 by omega, List.take_succ_eq_append_getElem (by omega)]
      simp [nodeAt, show n + j < pool.length by omega]
    have ih := RisingPool.mergeLoop (r := r) h hcap m (j + 1) (by omega)
    have hin : leftInset (2 * j + 1 + 1) m ++ [true] = leftInset (2 * (j + 1)) (m + 1) := by
      simp [leftInset, List.replicate_succ', Nat.mul_add]
    rw [Machine.mergeLoop]
    simp only [h1, removeNode, leftInset_set, h2, hfull, if_false, mergeNodes]
    rw [nodeAt_take pool (by omega), nodeAt_take pool (by omega), ← hnode, hgrow, hin, ih]

end Sys2Proof.Machine
end

