-- ==== Sys2Proof/Tests/Slice0.lean ====
section
/-! SUPPORT. Tests of the model: expected values from the spec's examples and vectors (95_test_vectors.md) or
worked out by hand from its rules; and a witness for the hypotheses of every obligation that has some. -/

namespace Sys2Proof.Tests

open Sys2Proof
open Sys2Proof.Machine

/-! ### A configuration whose install can be followed by hand -/

/-- A legal configuration in which every byte value is frequent, so that the empty key text gives 256 leaves of
one weight; that text is also the default key. -/
def flatParams : Params := { referenceParams with freqExtra := allBytes, defaultKey := [] }

/-- The weight of pool index `i`. -/
def flatWeight (i : Nat) : Word :=
  if i < 256 then 10000#32 else if i < 384 then 20000#32 else if i < 448 then 40000#32
  else if i < 480 then 80000#32 else if i < 496 then 160000#32 else if i < 504 then 320000#32
  else if i < 508 then 640000#32 else if i < 510 then 1280000#32 else 2560000#32

/-- The pool the flat configuration's install builds. -/
def flatPool : List Node :=
  (List.range 256).map (fun i => .leaf 10000#32 i) ++
    (List.range 255).map (fun j => .internal (flatWeight (256 + j)) (2 * j) (2 * j + 1))

/-- 511 nodes. -/
theorem flatPool_length : flatPool.length = 511 := by simp [flatPool]

/-- The leaves come first, then the merged nodes, each of the next two nodes. -/
theorem flatPool_at (i : Nat) (h : i < 511) : nodeAt flatPool i =
    if i < 256 then .leaf 10000#32 i else .internal (flatWeight i) (2 * (i - 256)) (2 * (i - 256) + 1) := by
  rw [nodeAt, flatPool]
  split
  · rw [List.getElem?_append_left (by simpa), List.getElem?_map, List.getElem?_range (by omega)]
    rfl
  · rw [List.getElem?_append_right (by simp; omega), List.length_map, List.length_range, List.getElem?_map,
      List.getElem?_range (by omega), Option.map_some, Option.getD_some, show 256 + (i - 256) = i by omega]

/-- The weights of the pool. -/
theorem flatPool_weight (i : Nat) (h : i < 511) : nodeWeight (nodeAt flatPool i) = flatWeight i := by
  rw [flatPool_at i h]
  split
  · simp [nodeWeight, flatWeight, *]
  · rfl

/-- The weights rise with the index. -/
theorem flatWeight_rising : ∀ j, j < 510 → flatWeight j ≤ flatWeight (j + 1) := by decide +kernel

/-- Each merged node weighs as much as its two children. -/
theorem flatWeight_sum : ∀ j, j < 255 → flatWeight (2 * j) + flatWeight (2 * j + 1) = flatWeight (256 + j) := by
  decide +kernel

/-- So the merges follow one another in index order. -/
theorem flatPool_rising : RisingPool flatPool 256 where
  length := flatPool_length
  sorted i j hij hj := by
    rw [flatPool_weight i (by omega), flatPool_weight j (by omega)]
    induction hij with
    | refl => exact BitVec.le_refl _
    | @step j hij ih => exact BitVec.le_trans (ih (by omega)) (flatWeight_rising j (by omega))
  merged j hj := by
    rw [flatPool_at _ (by omega), flatPool_weight _ (by omega), flatPool_weight _ (by omega),
      flatWeight_sum j (by omega), if_neg (by omega), Nat.add_sub_cancel_left]

/-- The dictionary of an empty key text in the flat configuration. -/
def flatDict : List DictEntry := (dictBuild flatParams []).dict

/-- The entry of a byte in the flat configuration. -/
def flatEntry (b : Byte) : DictEntry := ⟨10000#32, [b], false, true⟩

/-- Every byte value is one. -/
theorem mem_allBytes (b : Byte) : b ∈ allBytes :=
  List.mem_map.2 ⟨b.toNat, List.mem_range.2 b.isLt, by simp⟩

/-- 256 byte entries of the same weight. -/
theorem flatDict_eq : flatDict = allBytes.map flatEntry := by
  have h : (addLines flatParams []).dict = [] := by decide
  rw [flatDict, dictBuild, h, registerBytes, List.nil_append]
  refine List.map_congr_left (fun b _ => ?_)
  have hb : isFrequent flatParams b = true := by
    have : flatParams.freqExtra.contains b = true := List.contains_iff_mem.2 (mem_allBytes b)
    rw [isFrequent, this, Bool.or_true]
  rw [byteEntry, byteWeight, if_pos hb]
  rfl

/-- Their leaves. -/
theorem leavesFrom_flat : ∀ (l : List Byte) (i : Nat),
    leavesFrom i (l.map flatEntry) = (List.range' i l.length).map (fun j => .leaf 10000#32 j)
  | [], _ => rfl
  | b :: l, i => by
    rw [List.map_cons, leavesFrom, leavesFrom_flat l (i + 1)]
    rfl

/-- The leaves are the first 256 nodes of the pool. -/
theorem flat_leaves : leavesFrom 0 flatDict = flatPool.take 256 := by
  rw [flatDict_eq, leavesFrom_flat, flatPool, List.take_left' (by simp), List.range_eq_range']
  simp [allBytes, byteEntries]

/-- The tree builder builds that pool. -/
theorem flat_tree (r : Nat) : treeBuild (nodeCap flatParams) flatDict r =
    (⟨flatPool, leftInset 511 0, 510⟩, none) := by
  have h := flatPool_rising.mergeLoop (cap := nodeCap flatParams) (r := r) (by decide) 255 0 (by decide)
  have hlen : (flatPool.take 256).length = 256 := by rw [List.length_take, flatPool_length]; rfl
  have hm : makeLeaves flatDict r = ⟨flatPool.take (256 + 0), leftInset (2 * 0) (255 + 1), r⟩ := by
    rw [makeLeaves, flat_leaves, hlen]
    rfl
  have hroot : nodeAt flatPool 510 = .internal (flatWeight 510) 508 509 := flatPool_at 510 (by decide)
  rw [treeBuild, hm]
  simp only [Nat.add_zero, hlen]
  rw [h]
  simp only [checkRoot, hroot]

/-- The `n` low bits of a number, most significant first. -/
def codeOf : Nat → Nat → Bits
  | 0, _ => []
  | n + 1, k => decide (2 ^ n ≤ k) :: codeOf n (k % 2 ^ n)

/-- The code table: every byte value with its own eight bits as the code. -/
def flatCodes : List CodeEntry := (List.range 256).map (fun k => ⟨[BitVec.ofNat 8 k], codeOf 8 k⟩)

/-- The two halves of a range. -/
theorem range_double (n : Nat) : List.range (2 ^ (n + 1)) =
    List.range (2 ^ n) ++ (List.range (2 ^ n)).map (fun k => 2 ^ n + k) := by
  rw [← List.range_add, ← Nat.two_mul, Nat.pow_succ']

/-- What the traversal of a subtree of height `n` records. -/
theorem flat_visit : ∀ (n q room : Nat) (path : Bits), n ≤ 8 → q < 2 ^ (8 - n) → n ≤ room →
    visit flatPool flatDict (512 - 2 ^ (9 - n) + q) path room =
      .ok ((List.range (2 ^ n)).map (fun k => ⟨[BitVec.ofNat 8 (q * 2 ^ n + k)], path ++ codeOf n k⟩))
  | 0, q, room, path, _, hq, _ => by
    replace hq : q < 256 := hq
    have hn : nodeAt flatPool q = .leaf 10000#32 q := by
      rw [flatPool_at _ (by omega), if_pos hq]
    have hd : dictAt flatDict q = flatEntry (BitVec.ofNat 8 q) := by
      rw [dictAt, flatDict_eq, allBytes, List.map_map, List.getElem?_map, List.getElem?_range (by exact hq)]
      rfl
    cases room <;> simp [visit, hn, hd, flatEntry, codeOf]
  | n + 1, q, 0, path, _, _, h => absurd h (by omega)
  | n + 1, q, room + 1, path, hn, hq, hroom => by
    have h9 : 2 ^ (9 - n) = 2 * 2 ^ (9 - (n + 1)) := by rw [← Nat.pow_succ']; congr 1; omega
    have h8 : 2 ^ (8 - n) = 2 * 2 ^ (8 - (n + 1)) := by rw [← Nat.pow_succ']; congr 1; omega
    have h98 : 2 ^ (9 - (n + 1)) = 2 ^ (8 - n) := by congr 1; omega
    have hpos : 0 < 2 ^ (8 - (n + 1)) := Nat.two_pow_pos _
    have hle : 2 ^ (8 - n) ≤ 2 ^ 8 := Nat.pow_le_pow_right (by decide) (by omega)
    have hnode : nodeAt flatPool (512 - 2 ^ (9 - (n + 1)) + q) =
        .internal (flatWeight (512 - 2 ^ (9 - (n + 1)) + q)) (512 - 2 ^ (9 - n) + 2 * q)
          (512 - 2 ^ (9 - n) + (2 * q + 1)) := by
      rw [flatPool_at _ (by omega), if_neg (by omega)]
      rw [show 2 * (512 - 2 ^ (9 - (n + 1)) + q - 256) = 512 - 2 ^ (9 - n) + 2 * q by omega, Nat.add_assoc]
    have hl := flat_visit n (2 * q) room (path ++ [false]) (by omega) (by omega) (by omega)
    have hr := flat_visit n (2 * q + 1) room (path ++ [true]) (by omega) (by omega) (by omega)
    simp only [visit, hnode, hl, hr, range_double, List.map_append, List.map_map]
    congr 2
    · refine List.map_congr_left (fun k hk => ?_)
      have hk' : k < 2 ^ n := List.mem_range.1 hk
      simp [codeOf, Nat.mod_eq_of_lt hk', show ¬ 2 ^ n ≤ k by omega, Nat.pow_succ', Nat.mul_left_comm, Nat.mul_assoc]
    · refine List.map_congr_left (fun k hk => ?_)
      have hk' : k < 2 ^ n := List.mem_range.1 hk
      simp [codeOf, Nat.mod_eq_of_lt hk', Nat.pow_succ', Nat.mul_left_comm, Nat.mul_assoc, Nat.add_mul, Nat.add_assoc]

/-- What the code generator records. -/
theorem flat_codes : codeGen flatPool flatDict 510 = .ok flatCodes := by
  have h := flat_visit 8 0 maxCodeLen [] (by decide) (by decide) (by decide)
  simpa [codeGen, flatCodes] using h

/-- The key tables after that install. -/
def flatKey (implicit : Bool) (k : KeyTables) : KeyTables :=
  finishKey implicit 256 (withCodes flatCodes (withTree ⟨flatPool, leftInset 511 0, 510⟩
    (withDictionary 0 (dictBuild flatParams []) (discardKey k))))

/-- An install of the empty key text in the flat configuration succeeds. -/
theorem flat_install (implicit : Bool) (k : KeyTables) :
    installKey flatParams [] implicit k = (flatKey implicit k, .ok .ok) := by
  have h1 : (dictBuild flatParams []).invalidLines = 0 := by decide
  have h2 : (dictBuild flatParams []).fullLines = 0 := by decide
  have h3 : customCountOf flatParams [] = 0 := by decide
  have hn : leafCountOf (dictBuild flatParams []).dict = 256 := by
    rw [← flatDict, leafCountOf, flat_leaves, List.length_take, flatPool_length]
    decide
  rw [installKey_ok (flat_tree k.root) flat_codes implicit, h1, h2, h3, hn]
  rfl

theorem flat_reach : ∀ (n q k : Nat), n ≤ 8 → q < 2 ^ (8 - n) → k < 2 ^ n →
    reach flatPool (512 - 2 ^ (9 - n) + q) (codeOf n k) = some (q * 2 ^ n + k)
  | 0, q, k, _, _, hk => by
    have : k = 0 := by simpa using hk
    simp [this, codeOf, reach]
  | n + 1, q, k, hn, hq, hk => by
    have h9 : 2 ^ (9 - n) = 2 * 2 ^ (9 - (n + 1)) := by rw [← Nat.pow_succ']; congr 1; omega
    have h8 : 2 ^ (8 - n) = 2 * 2 ^ (8 - (n + 1)) := by rw [← Nat.pow_succ']; congr 1; omega
    have h98 : 2 ^ (9 - (n + 1)) = 2 ^ (8 - n) := by congr 1; omega
    have hle : 2 ^ (8 - n) ≤ 2 ^ 8 := Nat.pow_le_pow_right (by decide) (by omega)
    have hpow : 2 ^ (n + 1) = 2 * 2 ^ n := Nat.pow_succ'
    have hmod : k % 2 ^ n < 2 ^ n := Nat.mod_lt _ (Nat.two_pow_pos n)
    have hnode : nodeAt flatPool (512 - 2 ^ (9 - (n + 1)) + q) =
        .internal (flatWeight (512 - 2 ^ (9 - (n + 1)) + q)) (512 - 2 ^ (9 - n) + 2 * q)
          (512 - 2 ^ (9 - n) + (2 * q + 1)) := by
      rw [flatPool_at _ (by omega), if_neg (by omega)]
      rw [show 2 * (512 - 2 ^ (9 - (n + 1)) + q - 256) = 512 - 2 ^ (9 - n) + 2 * q by omega, Nat.add_assoc]
    by_cases hbit : 2 ^ n ≤ k
    · have hk2 : k % 2 ^ n = k - 2 ^ n := by
        rw [Nat.mod_eq_sub_mod hbit, Nat.mod_eq_of_lt (by omega)]
      have ih := flat_reach n (2 * q + 1) (k % 2 ^ n) (by omega) (by omega) hmod
      rw [hk2] at ih
      simp only [codeOf, hbit, decide_true, reach, hnode, childOf, ih, hk2]
      rw [hpow, Nat.add_mul, Nat.mul_assoc, Nat.mul_left_comm q 2]
      congr 1
      omega
    · have hk2 : k % 2 ^ n = k := Nat.mod_eq_of_lt (by omega)
      have ih := flat_reach n (2 * q) (k % 2 ^ n) (by omega) (by omega) hmod
      rw [hk2] at ih
      simp only [codeOf, hbit, decide_false, reach, hnode, childOf, ih, hk2]
      rw [hpow, Nat.mul_left_comm q 2, Nat.mul_assoc]

theorem codeOf_length : ∀ n k, (codeOf n k).length = n
  | 0, _ => rfl
  | n + 1, k => by simp [codeOf, codeOf_length n]

theorem internal_lt {pool : List Node} {i : Nat} {w : Word} {l r : Nat}
    (h : nodeAt pool i = .internal w l r) : i < pool.length := by
  apply Nat.lt_of_not_le
  intro hle
  simp [nodeAt, List.getElem?_eq_none hle] at h

/-- The height of a node of the flat pool. -/
def flatLevel (i : Nat) : Nat :=
  if i < 256 then 0 else if i < 384 then 1 else if i < 448 then 2 else if i < 480 then 3
  else if i < 496 then 4 else if i < 504 then 5 else if i < 508 then 6 else if i < 510 then 7 else 8

theorem flat_children {i : Nat} {w : Word} {l r : Nat} (h : nodeAt flatPool i = .internal w l r) :
    256 ≤ i ∧ i < 511 ∧ l = 2 * (i - 256) ∧ r = 2 * (i - 256) + 1 := by
  have hlt : i < 511 := by simpa [flatPool_length] using internal_lt h
  rw [flatPool_at i hlt] at h
  split at h
  · exact absurd h (by simp)
  · simp only [Node.internal.injEq] at h
    omega

theorem flat_notEmpty {i : Nat} (h : i < 511) : nodeAt flatPool i ≠ .empty := by
  rw [flatPool_at i h]
  split <;> simp

theorem flatKey_tablesAgree (implicit : Bool) (k : KeyTables) : TablesAgree (flatKey implicit k) where
  rootInternal := ⟨_, _, _, flatPool_at 510 (by decide)⟩
  children i w l r h := by
    have := flat_children h
    exact ⟨by omega, by omega, flat_notEmpty (by omega), flat_notEmpty (by omega)⟩
  depth path i w l r hreach hnode := by
    have hlevel : ∀ j, j < 255 → flatLevel (2 * j) < flatLevel (256 + j) ∧
        flatLevel (2 * j + 1) < flatLevel (256 + j) := by decide +kernel
    have := reach_level flatPool flatLevel (fun i w l r h => by
      have hc := flat_children h
      have hi : 256 + (i - 256) = i := by omega
      have := hlevel (i - 256) (by omega)
      rw [hi, ← hc.2.2.2, ← hc.2.2.1] at this
      exact this) path 510 i hreach
    have h510 : flatLevel 510 = 8 := by decide
    exact Nat.lt_of_le_of_lt (by omega : path.length ≤ 8) (by decide)
  sizes e he := by
    obtain ⟨n, -, rfl⟩ := List.mem_map.1 (show e ∈ flatCodes from he)
    simp [codeOf_length, maxCodeLen, maxExprLen]
  codes e he := by
    obtain ⟨n, hn, rfl⟩ := List.mem_map.1 (show e ∈ flatCodes from he)
    have hn' : n < 256 := List.mem_range.1 hn
    have hreach : reach flatPool 510 (codeOf 8 n) = some n := by
      simpa using flat_reach 8 0 n (by decide) (by decide) hn'
    refine ⟨n, 10000#32, n, hreach, ?_, ?_⟩
    · exact (flatPool_at n (by omega)).trans (if_pos hn')
    · have : dictAt flatDict n = flatEntry (BitVec.ofNat 8 n) := by
        rw [dictAt, flatDict_eq, allBytes, List.map_map, List.getElem?_map,
          List.getElem?_range (by exact hn')]
        rfl
      exact congrArg DictEntry.expr this

/-- The byte whose code is a list of eight bits. -/
def codeValue : Bits → Nat → Nat
  | [], v => v
  | b :: bs, v => codeValue bs (2 * v + b.toNat)

theorem codeOf_codeValue : ∀ a b c d e f g h : Bool,
    codeOf 8 (codeValue [a, b, c, d, e, f, g, h] 0) = [a, b, c, d, e, f, g, h] ∧
      codeValue [a, b, c, d, e, f, g, h] 0 < 256 := by decide +kernel

theorem codeValue_codeOf_add : ∀ (n k v : Nat), k < 2 ^ n → codeValue (codeOf n k) v = v * 2 ^ n + k
  | 0, k, v, hk => by
    have : k = 0 := by simpa using hk
    simp [this, codeOf, codeValue]
  | n + 1, k, v, hk => by
    have hpow : 2 ^ (n + 1) = 2 * 2 ^ n := Nat.pow_succ'
    have ih := codeValue_codeOf_add n (k % 2 ^ n)
    by_cases hbit : 2 ^ n ≤ k
    · have hk2 : k % 2 ^ n = k - 2 ^ n := by
        rw [Nat.mod_eq_sub_mod hbit, Nat.mod_eq_of_lt (by omega)]
      rw [codeOf, codeValue, ih _ (Nat.mod_lt _ (Nat.two_pow_pos n)), decide_eq_true hbit, hk2, hpow,
        Bool.toNat_true, Nat.add_mul, Nat.mul_assoc, Nat.mul_left_comm v 2]
      omega
    · have hk2 : k % 2 ^ n = k := Nat.mod_eq_of_lt (by omega)
      rw [codeOf, codeValue, ih _ (Nat.mod_lt _ (Nat.two_pow_pos n)), decide_eq_false hbit, hk2, hpow,
        Bool.toNat_false, Nat.add_zero, Nat.mul_left_comm v 2, Nat.mul_assoc]

theorem codeValue_codeOf (k : Nat) (hk : k < 256) : codeValue (codeOf 8 k) 0 = k := by
  simpa using codeValue_codeOf_add 8 k 0 hk

theorem flatKey_codesComplete (implicit : Bool) (k : KeyTables) : CodesComplete (flatKey implicit k) where
  prefixFree e he f hf hpre := by
    obtain ⟨n, hn, rfl⟩ := List.mem_map.1 (show e ∈ flatCodes from he)
    obtain ⟨m, hm, rfl⟩ := List.mem_map.1 (show f ∈ flatCodes from hf)
    have heq : codeOf 8 n = codeOf 8 m := hpre.eq_of_length (by simp [codeOf_length])
    have := congrArg (fun c => codeValue c 0) heq
    simp only [codeValue_codeOf n (List.mem_range.1 hn), codeValue_codeOf m (List.mem_range.1 hm)] at this
    rw [this]
  covers bits := by
    have hlen : ((bits ++ List.replicate 8 false).take 8).length = 8 := by simp
    obtain ⟨p, hp⟩ : ∃ p, (bits ++ List.replicate 8 false).take 8 = p := ⟨_, rfl⟩
    rw [hp] at hlen
    obtain ⟨n, hn, hcode⟩ : ∃ n, n < 256 ∧ codeOf 8 n = p := by
      match p, hlen with
      | [a, b, c, d, e, f, g, h], _ =>
        exact ⟨_, (codeOf_codeValue a b c d e f g h).2, (codeOf_codeValue a b c d e f g h).1⟩
    refine ⟨⟨[BitVec.ofNat 8 n], codeOf 8 n⟩, List.mem_map.2 ⟨n, List.mem_range.2 hn, rfl⟩, ?_⟩
    rw [hcode, ← hp]
    exact List.prefix_or_prefix_of_prefix (List.take_prefix 8 _) (List.prefix_append bits _)
  distinct := by
    have h : (flatKey implicit k).ct.map CodeEntry.expr = allBytes.map (fun b => [b]) := by
      show flatCodes.map CodeEntry.expr = _
      rw [flatCodes, allBytes, List.map_map, List.map_map]
      rfl
    rw [h, allBytes, List.map_map, List.Nodup, List.pairwise_map]
    refine List.Pairwise.imp_of_mem (fun {n m} hn hm hne heq => hne ?_) List.nodup_range
    simp only [Function.comp_apply, List.cons.injEq, and_true] at heq
    have := congrArg BitVec.toNat heq
    have hn' : n < 256 := List.mem_range.1 hn
    have hm' : m < 256 := List.mem_range.1 hm
    simpa [Nat.mod_eq_of_lt hn', Nat.mod_eq_of_lt hm'] using this
  everyByte b := by
    have hb : (⟨[b], codeOf 8 b.toNat⟩ : CodeEntry) ∈ flatCodes :=
      List.mem_map.2 ⟨b.toNat, List.mem_range.2 b.isLt, by simp⟩
    refine ⟨_, hb, rfl, fun f hf hfb => ?_⟩
    obtain ⟨m, hm, rfl⟩ := List.mem_map.1 (show f ∈ flatCodes from hf)
    have hm' : m < 256 := List.mem_range.1 hm
    have : b = BitVec.ofNat 8 m := by simpa using hfb.symm
    subst this
    simp [Nat.mod_eq_of_lt hm']

/-! ### Decoding and well-formedness -/

/-- The opcode of a command is no illegal instruction (30_encoding.md R81, R82). -/
theorem test_wellFormed_refuses : (Instr.illegal 0x1#4 0x0000000#28).wellFormed = false ∧
    (Instr.illegal 0x2#4 0x0000000#28).wellFormed = false ∧
    (Instr.illegal 0x3#4 0x0000000#28).wellFormed = false ∧
    (Instr.illegal 0xF#4 0x0000000#28).wellFormed = false := by decide

theorem test_wellFormed_accepts : Instr.install.wellFormed = true ∧ Instr.pack.wellFormed = true ∧
    Instr.unpack.wellFormed = true ∧ Instr.reset.wellFormed = true ∧
    (Instr.illegal 0x0#4 0x0000000#28).wellFormed = true ∧
    (Instr.illegal 0x1#4 0x0000001#28).wellFormed = true := by decide

/-- 30_encoding.md R81, INSTALL: OP = 0x1, ZERO = 0. -/
theorem test_decode_install : decodeBytes [0x01#8, 0x00#8, 0x00#8, 0x00#8] = .ok (.install, []) := by rfl

/-- 30_encoding.md R81, PACK: OP = 0x2, ZERO = 0. -/
theorem test_decode_pack : decodeBytes [0x02#8, 0x00#8, 0x00#8, 0x00#8] = .ok (.pack, []) := by rfl

/-- 30_encoding.md R81, UNPACK: OP = 0x3, ZERO = 0. -/
theorem test_decode_unpack : decodeBytes [0x03#8, 0x00#8, 0x00#8, 0x00#8] = .ok (.unpack, []) := by rfl

/-- 30_encoding.md R81, RESET: OP = 0xF, ZERO = 0. -/
theorem test_decode_reset : decodeBytes [0x0F#8, 0x00#8, 0x00#8, 0x00#8] = .ok (.reset, []) := by rfl

/-- 30_encoding.md R82: a command's opcode under a ZERO field that is not 0, in its highest byte. -/
theorem test_decode_illegal :
    decodeBytes [0x21#8, 0x43#8, 0x65#8, 0x87#8] = .ok (.illegal 0x1#4 0x8765432#28, []) := by rfl

theorem test_decode_short : decodeBytes [0x01#8, 0x00#8, 0x00#8] = .error .shortWord := by rfl

theorem test_decodeTableWord : decodeTableWord 32 0x0000000F = some .reset ∧
    decodeTableWord 4 0x2 = some .pack ∧ decodeTableWord 64 0x1 = none := by decide

/-! ### Data formats -/

/-- 00_scope.md R15. -/
theorem test_hexVal : hexVal 0x39#8 = some 9#4 ∧ hexVal 0x61#8 = some 10#4 ∧ hexVal 0x46#8 = some 15#4 ∧
    hexVal 0x67#8 = none ∧ hexVal 0x2F#8 = none ∧ hexVal 0x3A#8 = none ∧ hexVal 0x40#8 = none := by decide

theorem test_hexChar : hexChar 9#4 = 0x39#8 ∧ hexChar 10#4 = 0x61#8 ∧ hexChar 15#4 = 0x66#8 := by decide

/-- The key text `0a6964` CR LF of V-INS-7: one line, without its carriage return. -/
theorem test_splitLines : splitLines [0x30#8, 0x61#8, 0x36#8, 0x39#8, 0x36#8, 0x34#8, 0x0D#8, 0x0A#8] =
    [[0x30#8, 0x61#8, 0x36#8, 0x39#8, 0x36#8, 0x34#8]] := by decide

/-- V-INS-11: three newlines are three empty lines. -/
theorem test_splitLines_empty : splitLines [0x0A#8, 0x0A#8, 0x0A#8] = [[], [], []] := by decide

/-- V-INS-3: `0a6964` is the expression `id` with weight 10, `05` is invalid. -/
theorem test_keyLine : keyLine [0x30#8, 0x61#8, 0x36#8, 0x39#8, 0x36#8, 0x34#8] = some ⟨10#8, [0x69#8, 0x64#8]⟩ ∧
    keyLine [0x30#8, 0x35#8] = none := by decide

/-- V-INS-9: `0a6` is invalid, and the odd digit of `0a696` is ignored. -/
theorem test_keyLine_odd : keyLine [0x30#8, 0x61#8, 0x36#8] = none ∧
    keyLine [0x30#8, 0x61#8, 0x36#8, 0x39#8, 0x36#8] = some ⟨10#8, [0x69#8]⟩ := by decide

/-- V-INS-4: the second `id` is stored and inactive. -/
theorem test_duplicate : (addLines referenceParams
    ([0x30#8, 0x61#8, 0x36#8, 0x39#8, 0x36#8, 0x34#8, 0x0A#8] ++
      [0x30#8, 0x62#8, 0x36#8, 0x39#8, 0x36#8, 0x34#8])).dict =
    [⟨10#32, [0x69#8, 0x64#8], true, true⟩, ⟨11#32, [0x69#8, 0x64#8], true, false⟩] := by decide

/-- 40_install.md R107, R108: one byte of every row. -/
theorem test_byteWeight : byteWeight referenceParams 0x0A#8 = 10000#32 ∧ byteWeight referenceParams 0x7A#8 = 1000#32 ∧
    byteWeight referenceParams 0x7E#8 = 200#32 ∧ byteWeight referenceParams 0x7F#8 = 1#32 := by decide

/-! ### The worked example of 41_tree_builder.md R126 and 42_code_table.md R136 (V-TREE-1) -/

/-- Four leaves `a` 5, `b` 2, `c` 2, `d` 1. -/
def tinyDict : List DictEntry :=
  [⟨5#32, [0x61#8], true, true⟩, ⟨2#32, [0x62#8], true, true⟩, ⟨2#32, [0x63#8], true, true⟩,
   ⟨1#32, [0x64#8], true, true⟩]

/-- Their tree: the merges (3, 1), (2, 4) and (0, 5). -/
def tinyPool : List Node :=
  [.leaf 5#32 0, .leaf 2#32 1, .leaf 2#32 2, .leaf 1#32 3, .internal 3#32 3 1, .internal 5#32 2 4,
   .internal 10#32 0 5]

/-- Their codes in traversal order: `a` 0, `c` 10, `d` 110, `b` 111. -/
def tinyCodes : List CodeEntry :=
  [⟨[0x61#8], [false]⟩, ⟨[0x63#8], [true, false]⟩, ⟨[0x64#8], [true, true, false]⟩,
   ⟨[0x62#8], [true, true, true]⟩]

theorem test_tree : treeBuild 7 tinyDict 0 = (⟨tinyPool, List.replicate 7 false, 6⟩, none) := by decide

theorem test_codes : (codeGen tinyPool tinyDict 6).toOption = some tinyCodes := by decide

/-- 41_tree_builder.md R122 to R124 (V-TREE-4, V-TREE-5). -/
theorem test_tree_errors : (treeBuild 7 [] 0).2 = some .treeBuildFailure ∧
    (treeBuild 7 (tinyDict.take 1) 0).2 = some .treeBuildFailure ∧
    (treeBuild 6 tinyDict 0).2 = some .allocationFailure := by decide

/-- A VALID key with that tree. -/
def tinyKey : KeyTables :=
  { KeyTables.reset with
    state := .valid, customCount := 4#8, leafCount := 4#9, minLen := 1#8, maxLen := 3#8, infoCount := 4#9
    dict := tinyDict, pool := tinyPool, inset := List.replicate 7 false, root := 6, ct := tinyCodes }

/-- An idle state with that key and a source in SRCMEM. -/
def tinyState (source : List Byte) : State :=
  { State.reset with
    key := tinyKey, mem := memWriteBytes [] srcBase source, srcLen := BitVec.ofNat 16 source.length }

/-- Whether an outcome is a next state with a property. -/
def nextIs (o : Host.Outcome State Fault Refusal) (p : State → Bool) : Bool :=
  match o with
  | .next t => p t
  | .fault _ => false
  | .refused _ => false

/-! ### Commands, one step each -/

/-- V-INS-12: KEY_LEN = 0x1001 is CapacityError and KEY_STATE stays NONE. -/
theorem test_install_capacity :
    nextIs (step (({ State.reset with keyLen := 0x1001#16 }).withFetchWord 32 0x1))
      (fun t => regValue t .errCode == 11#32 && regValue t .status == 0x00000006#32) = true := by decide

/-- An install reports and holds what 40_install.md R109 and 42_code_table.md R135 say: 256 leaves, every code
eight bits long. -/
theorem test_install_flat (s : State) (hc : s.cfg = flatParams) (h0 : s.keyLen = 0#16) :
    ∃ t, exec .install s = .next t ∧ t.errCode = .ok ∧ t.key.state = .valid ∧ t.key.leafCount = 256#9 ∧
      t.key.minLen = 8#8 ∧ t.key.maxLen = 8#8 := by
  have hle : ¬ s.cfg.keyMax < s.keyLen.toNat := by rw [hc, h0]; decide
  have htext : keyText s = [] := by rw [keyText, h0]; rfl
  have hmin : minCodeLen flatCodes = 8 := by decide +kernel
  have hmax : maxLenOfCodes flatCodes = 8 := by decide +kernel
  refine ⟨_, rfl, ?_⟩
  rw [installCommand, if_neg hle, htext, hc, flat_install]
  refine ⟨rfl, rfl, rfl, ?_, ?_⟩
  · exact congrArg (BitVec.ofNat 8) hmin
  · exact congrArg (BitVec.ofNat 8) hmax

/-- Worked by hand from 43_pack.md R143 to R151: `ad` is 0 110, four pad bits 0000 from 0x0001, nibbles 0 and 6,
checksum 6. -/
theorem test_pack : nextIs (exec .pack (tinyState [0x61#8, 0x64#8])) (fun t =>
    resultBytes t == [0x34#8, 0x30#8, 0x36#8, 0x36#8] && t.out.pad == 4#3 && t.rng == 0x0010#16 &&
      t.errCode == .ok) = true := by decide

/-- A byte without a code in this code table is EncodingFailure (43_pack.md R153), and the generator stays. -/
theorem test_pack_fails : nextIs (exec .pack (tinyState [0x61#8, 0x65#8])) (fun t =>
    t.errCode == .encodingFailure && t.out.dstLen == 0#16 && t.rng == 0x0001#16) = true := by decide

/-- Back from `4066` (44_unpack.md R163 to R168). -/
theorem test_unpack : nextIs (exec .unpack (tinyState [0x34#8, 0x30#8, 0x36#8, 0x36#8])) (fun t =>
    resultBytes t == [0x61#8, 0x64#8] && t.out.pad == 4#3 && t.out.trail == 0#8 && t.errCode == .ok) = true := by
  decide

/-- 44_unpack.md R165, R171 (d) and R168: `4066` with another checksum; with the pad digit 6, which leaves the
bits 10; and `0033`, six `a` and two bits that end no code. -/
theorem test_unpack_checks :
    nextIs (exec .unpack (tinyState [0x34#8, 0x30#8, 0x36#8, 0x37#8])) (fun t => t.errCode == .checksumError) = true ∧
    nextIs (exec .unpack (tinyState [0x36#8, 0x30#8, 0x36#8, 0x36#8])) (fun t =>
      resultBytes t == [0x63#8] && t.out.trail == 0#8 && t.errCode == .ok) = true ∧
    nextIs (exec .unpack (tinyState [0x30#8, 0x30#8, 0x33#8, 0x33#8])) (fun t =>
      resultBytes t == List.replicate 6 0x61#8 && t.out.trail == 2#8 && t.out.trailWarn) = true := by decide

/-- V-CTL-15, with the completion step due: the reset wins and no event is set (60_exceptions.md R206). -/
theorem test_hardReset : nextIs (step { State.reset.withFetchWord 32 0x2 with queue := [.hardReset] }) (fun t =>
    t.engine == .idle && !t.done && t.irqStatus == 0#3 && t.queue == []) = true := by decide

/-- V-CTL-6. -/
theorem test_reset : nextIs (step ((tinyState [0x61#8]).withFetchWord 32 0xF)) (fun t =>
    regValue t .status == 0x00000002#32 && regValue t .cmd == 0x0000000F#32 &&
      regValue t .irqStatus == 0x00000001#32 && t.key == KeyTables.reset && t.rng == 0x0001#16 &&
      byteAt t srcBase == 0x61#8) = true := by decide

/-- V-CTL-3. -/
theorem test_illegal : nextIs (step (State.reset.withFetchWord 32 0x0)) (fun t =>
    regValue t .status == 0x00000006#32 && regValue t .errCode == 0x0000000C#32 &&
      regValue t .cmd == 0x00000000#32 && regValue t .irqStatus == 0x00000003#32) = true := by decide

/-- V-CTL-4. -/
theorem test_illegal_cmd : nextIs (step (State.reset.withFetchWord 32 0x11)) (fun t =>
    regValue t .errCode == 0x0000000C#32 && regValue t .cmd == 0x00000001#32) = true := by decide

/-- 43_pack.md R156 (V-PACK-2): seven steps from 0x0001 reach 0x0080, all outputs 0. -/
theorem test_lfsr : lfsrAfter 0x0001#16 7 = 0x0080#16 ∧ lfsrBits 0x0001#16 7 = List.replicate 7 false := by decide

/-- V-PACK-3: the pad bits 1010110 from 0xACE1, which reach 0x70F2. -/
theorem test_lfsr_seeded : lfsrAfter 0xACE1#16 7 = 0x70F2#16 ∧
    lfsrBits 0xACE1#16 7 = [true, false, true, false, true, true, false] := by decide

/-- V-PACK-2: the checksum `e` of the data nibbles `0169`. -/
theorem test_xorNibbles : xorNibbles [0x0#4, 0x1#4, 0x6#4, 0x9#4] = 0xE#4 := by decide

/-! ### The host port -/

/-- A state with a command running. -/
def busyState : State := { State.reset with engine := .running 0x00000003#32 2 }

/-- V-CTL-1 and V-CTL-2. -/
theorem test_reset_registers : regValue State.reset .id = 0x48554637#32 ∧
    regValue State.reset .param0 = 0x00800F14#32 ∧ regValue State.reset .param1 = 0x00001000#32 ∧
    regValue State.reset .param2 = 0x40002000#32 ∧ regValue State.reset .rngState = 0x00000001#32 := by decide

/-- V-CTL-7. -/
theorem test_drop : hostWrite 0x00024#20 4 5#32 busyState =
    { busyState with irqStatus := 0b100#3, port := .writeDone } := by decide

/-- V-CTL-8 and V-CTL-9. -/
theorem test_noDrop : (hostWrite 0x00040#20 4 1#32 busyState).irqEn = 0b001#3 ∧
    hostWrite 0x00018#20 4 5#32 busyState = { busyState with port := .writeDone } := by decide

/-- V-CTL-10. -/
theorem test_busErrors : hostWrite 0x0001C#20 4 0#32 State.reset = { State.reset with port := .busError } ∧
    hostRead 0x00014#20 2 State.reset = { State.reset with port := .busError } ∧
    hostWrite 0x08000#20 1 0#32 State.reset = { State.reset with port := .busError } := by decide

/-- V-CTL-11. -/
theorem test_clearEvents : (hostWrite 0x00044#20 4 5#32 { State.reset with irqStatus := 0b111#3 }).irqStatus =
    0b010#3 := by decide

/-- V-CTL-12 and V-CTL-13. -/
theorem test_irq : irq { State.reset with irqEn := 0b010#3, irqStatus := 0b001#3 } = false ∧
    irq { State.reset with irqEn := 0b010#3, irqStatus := 0b011#3 } = true := by decide

/-- V-CG-10, V-CG-11: the entry of `id` with the code 10110111101010. -/
theorem test_ctmem :
    let e : CodeEntry := ⟨[0x69#8, 0x64#8], [true, false, true, true, false, true, true, true] ++
      [true, false, true, false, true, false]⟩
    (hostRead 0x08000#20 4 { State.reset with key := { tinyKey with ct := [e] } }).port = .readData 0x80000E02#32 ∧
      (hostRead 0x08020#20 4 { State.reset with key := { tinyKey with ct := [e] } }).port =
        .readData 0x0000A8B7#32 := by decide

/-- V-CG-12: no entry is valid after a reset. -/
theorem test_ctmem_reset : (hostRead 0x08000#20 4 State.reset).port = .readData 0#32 := by decide

/-- 20_memory.md R57: the bytes of a word lie lowest first, and an unwritten byte is its free value. -/
theorem test_littleEndian :
    let s := hostWrite 0x02000#20 4 0x65757274#32 State.reset
    byteAt s 0x02000 = 0x74#8 ∧ byteAt s 0x02003 = 0x65#8 ∧ byteAt s 0x02004 = Config.freeByte 0 0x02004 := by
  refine ⟨by decide, by decide, rfl⟩

/-! ### Host scripts -/

/-- P1 of 95_test_vectors.md: its first statement and the command write. -/
theorem test_expand : expand (.loadSrc [0x74#8, 0x72#8]) =
    [.write 0x02000#20 1 0x74#32, .write 0x02001#20 1 0x72#32, .write 0x00024#20 4 2#32] ∧
    expand .pack = [.write 0x00010#20 4 0x00000002#32] := by decide

/-- The text `WR CMD, 0x0 ; x` of R91, and `SEED 0xACE1`. -/
theorem test_readScript :
    readScript (ascii ['W', 'R', ' ', 'C', 'M', 'D', ',', ' ', '0', 'x', '0', ' ', ';', 'x']) = some [.wr .cmd 0#32] ∧
    readScript (ascii ['S', 'E', 'E', 'D', ' ', '0', 'x', 'A', 'C', 'E', '1']) = some [.seed 0xACE1#32] := by decide

/-- The escapes of 30_encoding.md R92. -/
theorem test_escapes : readString (ascii ['a', '\\', 'n', '\\', 'x', '4', '1', '\\', '"', '"', 'z']) =
    some ([0x61#8, 0x0A#8, 0x41#8, 0x22#8], [0x7A#8]) := by decide

/-! ### Witnesses: states that meet the hypotheses of the obligations -/

theorem tiny_internal {i : Nat} {w : Word} {l r : Nat} (h : nodeAt tinyPool i = .internal w l r) :
    (i = 4 ∧ l = 3 ∧ r = 1) ∨ (i = 5 ∧ l = 2 ∧ r = 4) ∨ (i = 6 ∧ l = 0 ∧ r = 5) := by
  have hlt : i < 7 := internal_lt h
  match i, hlt with
  | 0, _ | 1, _ | 2, _ | 3, _ => simp [nodeAt, tinyPool] at h
  | 4, _ | 5, _ | 6, _ => simp [nodeAt, tinyPool] at h; omega

/-- The key tables of the worked example agree. -/
theorem tinyKey_tablesAgree : TablesAgree tinyKey where
  rootInternal := ⟨10#32, 0, 5, rfl⟩
  children i w l r h := by
    rcases tiny_internal h with ⟨rfl, rfl, rfl⟩ | ⟨rfl, rfl, rfl⟩ | ⟨rfl, rfl, rfl⟩ <;> decide
  depth path i w l r hreach hnode := by
    have := reach_level tinyPool id (fun i w l r h => by
      rcases tiny_internal h with ⟨rfl, rfl, rfl⟩ | ⟨rfl, rfl, rfl⟩ | ⟨rfl, rfl, rfl⟩ <;> decide) path 6 i hreach
    simp only [id_eq] at this
    exact Nat.lt_of_le_of_lt (by omega : path.length ≤ 6) (by decide)
  sizes := by decide
  codes e he := by
    have : e = ⟨[0x61#8], [false]⟩ ∨ e = ⟨[0x63#8], [true, false]⟩ ∨ e = ⟨[0x64#8], [true, true, false]⟩ ∨
        e = ⟨[0x62#8], [true, true, true]⟩ := by simpa [tinyKey, tinyCodes] using he
    rcases this with rfl | rfl | rfl | rfl
    · exact ⟨0, 5#32, 0, rfl, rfl, rfl⟩
    · exact ⟨2, 2#32, 2, rfl, rfl, rfl⟩
    · exact ⟨3, 1#32, 3, rfl, rfl, rfl⟩
    · exact ⟨1, 2#32, 1, rfl, rfl, rfl⟩

/-- The state after an install of the empty key text in the flat configuration. -/
def flatState : State := { State.reset with cfg := flatParams, key := flatKey false KeyTables.reset }

/-- 256 entries. -/
theorem flatDict_length : (dictBuild flatParams []).dict.length = 256 := by
  have h := congrArg List.length flatDict_eq
  rw [flatDict] at h
  rw [h, List.length_map, allBytes, List.length_map, List.length_range]
  rfl

/-- The tables of that install fit. -/
theorem flatKey_tablesFit (implicit : Bool) (k : KeyTables) : TablesFit flatParams (flatKey implicit k) where
  dict := by
    show (dictBuild flatParams []).dict.length ≤ _
    rw [flatDict_length]
    decide
  exprs e he := by
    have h := flatDict_eq
    rw [flatDict] at h
    have he' : e ∈ (dictBuild flatParams []).dict := he
    rw [h] at he'
    obtain ⟨b, -, rfl⟩ := List.mem_map.1 he'
    exact ⟨by simp [flatEntry], by simp [flatEntry, maxExprLen]⟩
  pool := by
    show flatPool.length ≤ _
    rw [flatPool_length]
    decide
  inset := by
    show (leftInset 511 0).length = flatPool.length
    rw [flatPool_length, leftInset, List.length_append, List.length_replicate, List.length_replicate]
  ct := by
    show flatCodes.length ≤ _
    rw [flatCodes, List.length_map, List.length_range]
    decide
  root := by
    show 510 < _
    decide
  children i w l r h := by
    have := flat_children h
    omega
  leaves i w d h := by
    show d < (dictBuild flatParams []).dict.length
    rw [flatDict_length]
    have hi : i < 511 := by
      apply Nat.lt_of_not_le
      intro hle
      have hnone : flatPool[i]? = none := List.getElem?_eq_none (by rw [flatPool_length]; exact hle)
      have h' : nodeAt flatPool i = .leaf w d := h
      simp [nodeAt, hnone] at h'
    have h' := (flatPool_at i hi).symm.trans h
    split at h'
    · simp only [Node.leaf.injEq] at h'
      omega
    · cases h'

/-- It meets both invariants with a VALID key. -/
theorem flatState_invs : Inv flatState ∧ CodesInv flatState ∧ flatState.key.state = .valid := by
  refine ⟨?_, fun _ => flatKey_codesComplete _ _, rfl⟩
  constructor
  · decide
  · exact List.Pairwise.nil
  · intro c hc; cases hc
  · intro h; cases h
  · rfl
  · decide
  · rfl
  · decide
  · exact flatKey_tablesFit _ _
  · exact fun _ => flatKey_tablesAgree _ _
  · intro h; exact absurd rfl h
  · intro h; cases h
  · decide
  · decide
  · decide

/-- O3. -/
theorem witness_OtherWordsCompleteWithIllegalCommand :
    (0x00000000#32 : Word) ≠ 0x00000001#32 ∧ (0x00000000#32 : Word) ≠ 0x00000002#32 ∧
      (0x00000000#32 : Word) ≠ 0x00000003#32 ∧ (0x00000000#32 : Word) ≠ 0x0000000F#32 := by decide

/-- O4. -/
theorem witness_DecodeAndEncodeAgree :
    (Instr.illegal 0xF#4 0xFFFFFFF#28).wellFormed = true ∧ Instr.install.wellFormed = true := by decide

/-- O5, one state for each clause. -/
theorem witness_StepRunsTheAcceptedCommand :
    ({ State.reset with engine := .running 0x00000003#32 0 } : State).engine = .running 0x00000003#32 0 ∧
      ({ State.reset with engine := .running 0x00000003#32 0 } : State).queue.head? ≠ some .hardReset ∧
      ({ State.reset with engine := .running 0x00000003#32 0, queue := [.hardReset] } : State).queue.head? =
        some .hardReset ∧
      Instr.unpack.wellFormed = true ∧ busyState.engine = .running 0x00000003#32 (1 + 1) ∧
      State.reset.engine = .idle := by decide

/-- O5, the host's turn: an idle and a busy state for each head of the queue. -/
theorem witness_StepRunsTheAcceptedCommand_turn :
    (∀ q : List HostOp, ({ State.reset with queue := q } : State).engine = .idle ∧
      ({ State.reset with queue := q } : State).queue = q) ∧
    (∀ q : List HostOp, ({ busyState with queue := q } : State).engine = .running 0x00000003#32 (1 + 1) ∧
      ({ busyState with queue := q } : State).queue = q) := ⟨fun _ => ⟨rfl, rfl⟩, fun _ => ⟨rfl, rfl⟩⟩

/-- A write that is the idle host's next operation is done by the step: CMD takes PACK (45_control.md R180). -/
theorem test_queued_write_is_done :
    (match step { State.reset with queue := [.write 0x00010#20 4 0x00000002#32] } with
      | .next t => t.cmdLast == 2#4 && t.busy && t.queue == []
      | _ => false) = true := by decide

/-- O6. -/
theorem witness_AcceptedCommandRunsToCompletion :
    ({ busyState with queue := [.read 0x00014#20 4] } : State).engine = .running 0x00000003#32 2 ∧
      HostOp.hardReset ∉ ({ busyState with queue := [.read 0x00014#20 4] } : State).queue := by decide

/-- O7. -/
theorem witness_WaitEndsAfterCompletion :
    ({ busyState with queue := [.wait, .readDst] } : State).engine = .running 0x00000003#32 2 ∧
      ({ busyState with queue := [.wait, .readDst] } : State).queue = .wait :: [.readDst] := by decide

/-- O8, while a command runs whose completion step is due. -/
theorem witness_HardwareResetAbandonsTheCommand :
    ({ busyState with engine := .running 0x00000002#32 0, queue := [.hardReset, .wait] } : State).queue =
      .hardReset :: [.wait] := by decide

/-- O9. -/
theorem witness_EveryStepGoesOnAndKeepsTheParameters : ∃ t, step (tinyState [0x61#8]) = .next t := ⟨_, rfl⟩

/-- O10, for the three clauses. -/
theorem witness_CommandWriteRule : State.reset.busy = false ∧ busyState.busy = true ∧
    (0x10 ≤ (0x00010#20 : BitVec 20).toNat ∧ (0x00010#20 : BitVec 20).toNat < 0x14 ∧
      ¬ ((0x00010#20 : BitVec 20) = 0x00010#20 ∧ 2 = 4)) ∧
    (0x10 ≤ (0x00013#20 : BitVec 20).toNat ∧ (0x00013#20 : BitVec 20).toNat < 0x14 ∧
      ¬ ((0x00013#20 : BitVec 20) = 0x00010#20 ∧ 4 = 4)) := by decide

/-- O11: a register, the last byte of a window, a read-only register, an access that is a bus error. -/
theorem witness_WritesWhileBusyAreDropped : busyState.busy = true ∧
    accessLegal busyState.cfg true (0x00048#20 : BitVec 20).toNat 4 = true ∧
    (0x00048#20 : BitVec 20).toNat ∈ [0x010, 0x020, 0x024, 0x048] ∧
    accessLegal busyState.cfg true (0x07FFF#20 : BitVec 20).toNat 1 = true ∧
    inDataWindow busyState.cfg (0x07FFF#20 : BitVec 20).toNat = true ∧
    (0x0003C#20 : BitVec 20).toNat ∈
      [0x000, 0x004, 0x008, 0x00C, 0x014, 0x018, 0x028, 0x02C, 0x030, 0x034, 0x038, 0x03C] ∧
    accessLegal busyState.cfg true (0x08000#20 : BitVec 20).toNat 1 = false := by decide

/-- O12, at the two ends of the windows. -/
theorem witness_WritesWhileIdleTakeEffect : State.reset.busy = false ∧
    inDataWindow State.reset.cfg (0x01000#20 : BitVec 20).toNat = true ∧
    accessLegal State.reset.cfg true (0x01000#20 : BitVec 20).toNat 4 = true ∧
    inDataWindow State.reset.cfg (0x07FFE#20 : BitVec 20).toNat = true ∧
    accessLegal State.reset.cfg true (0x07FFE#20 : BitVec 20).toNat 2 = true := by decide

/-- O13. -/
theorem witness_WindowReadReturnsTheWrite : State.reset.busy = false ∧
    inDataWindow State.reset.cfg (0x03FFC#20 : BitVec 20).toNat = true ∧
    accessLegal State.reset.cfg true (0x03FFC#20 : BitVec 20).toNat 4 = true := by decide

/-- O14: a bus error at the first address behind KEYMEM's and SRCMEM's windows, and at CTMEM for a write. -/
theorem witness_LegalAccessesAreTheMaps : paramsInRange State.reset.cfg = true ∧
    accessLegal State.reset.cfg false (0x0C500#20 : BitVec 20).toNat 1 = false ∧
    accessLegal State.reset.cfg true (0x08000#20 : BitVec 20).toNat 4 = false ∧
    accessLegal State.reset.cfg false (0x0C4FF#20 : BitVec 20).toNat 1 = true := by decide

/-- O15 and O16. -/
theorem witness_reads : State.reset.busy = false ∧ regionAt State.reset.cfg 0x01FFF = .keyMem ∧
    regionAt State.reset.cfg 0x02000 = .srcMem ∧
    Reg.srcLen ∈ [Reg.id, .param0, .param1, .param2, .cmd, .irqEn, .irqStatus, .keyLen, .srcLen] := by decide

/-- O16, reads at the ends of the windows. -/
theorem witness_window_reads : accessLegal State.reset.cfg false (0x01FFC#20 : BitVec 20).toNat 4 = true ∧
    regionAt State.reset.cfg (0x01FFC#20 : BitVec 20).toNat = .keyMem ∧
    accessLegal State.reset.cfg false (0x07FFF#20 : BitVec 20).toNat 1 = true ∧
    regionAt State.reset.cfg (0x07FFF#20 : BitVec 20).toNat = .dstMem ∧
    accessLegal State.reset.cfg false (0x08000#20 : BitVec 20).toNat 2 = true ∧
    regionAt State.reset.cfg (0x08000#20 : BitVec 20).toNat = .ctMem := by decide

/-- O20. -/
theorem witness_IrqIsTheOrOfEnabledEvents : ({ State.reset with irqStatus := 0b111#3 } : State).irqEn = 0#3 := by
  decide

/-- O22. -/
theorem witness_InstallOverKeyMaxKeepsTheOldKey :
    ({ State.reset with keyLen := 4097#16 } : State).cfg.keyMax <
      ({ State.reset with keyLen := 4097#16 } : State).keyLen.toNat := by decide

/-- O23. -/
theorem witness_InstallCompletesWithItsKeyAndFrame :
    ({ State.reset with keyLen := 4096#16 } : State).keyLen.toNat ≤
      ({ State.reset with keyLen := 4096#16 } : State).cfg.keyMax := by decide

/-- O25 to O28: an install that succeeds, explicit and implicit. -/
theorem witness_install_valid (implicit : Bool) :
    (installKey flatParams [] implicit KeyTables.reset).1.state = .valid ∧
      (installKey flatParams [] implicit KeyTables.reset).1.ct ≠ [] := by
  rw [flat_install]
  exact ⟨rfl, by show flatCodes ≠ []; decide⟩

/-- O28, two entries of that table, next to each other in its middle. -/
theorem witness_CodeInfoHoldsTheCodeLengths (implicit : Bool) :
    (installKey flatParams [] implicit KeyTables.reset).1.ct[127]? = some ⟨[0x7F#8], codeOf 8 127⟩ ∧
      (installKey flatParams [] implicit KeyTables.reset).1.ct[128]? = some ⟨[0x80#8], codeOf 8 128⟩ := by
  rw [flat_install]
  show flatCodes[127]? = _ ∧ flatCodes[128]? = _
  decide

/-- O29. -/
theorem witness_SplitLinesCutsAtNewlines : (0x0D#8 : Byte) ≠ newline ∧
    ([0x61#8] : List Byte).getLast? ≠ some carriageReturn ∧ ([] : List Byte).getLast? ≠ some carriageReturn := by
  decide

/-- O30, a line of the shortest valid length and a dictionary with room. -/
theorem witness_KeyLineFieldsAreTheHexPairs :
    keyLine [0x30#8, 0x61#8, 0x36#8, 0x39#8] = some ⟨0x0A#8, [0x69#8]⟩ ∧
      (⟨[], 0, 0⟩ : DictBuild).dict.length ≠ referenceParams.customMax ∧
      (0x30#8 : Byte) ∈ [0x30#8, 0x61#8, 0x36#8, 0x39#8] := by decide

/-- O30: the bytes at the edges of the three digit ranges. -/
theorem test_hex_digits_at_the_edges :
    [0x2F#8, 0x30#8, 0x39#8, 0x3A#8].map hexVal = [none, some 0x0#4, some 0x9#4, none] ∧
      [0x40#8, 0x41#8, 0x46#8, 0x47#8].map hexVal = [none, some 0xA#4, some 0xF#4, none] ∧
      [0x60#8, 0x61#8, 0x66#8, 0x67#8].map hexVal = [none, some 0xA#4, some 0xF#4, none] ∧
      [0x0#4, 0x9#4, 0xA#4, 0xF#4].map hexChar = [0x30#8, 0x39#8, 0x61#8, 0x66#8] := by decide

/-- O32: the first entry and, behind it, a byte entry. -/
theorem witness_OnlyTheFirstOfEqualExpressionsIsActive :
    (dictBuild flatParams []).dict[0]? = some (flatEntry 0x00#8) ∧
      (dictBuild flatParams []).dict[1]? = some (flatEntry 0x01#8) := by
  have h := flatDict_eq
  rw [flatDict] at h
  rw [h]
  exact ⟨rfl, rfl⟩

/-- O35, with the smallest capacity that suffices. -/
theorem witness_TreeBuildMergesAllLeaves : 2 ≤ (tinyDict.filter (fun e => e.active)).length ∧
    2 * (tinyDict.filter (fun e => e.active)).length - 1 ≤ 7 := by decide

/-- O36. -/
theorem witness_LeavesAreTheActiveEntries :
    (leavesFrom 0 tinyDict)[3]? = some (.leaf 1#32 3) ∧
      tinyDict[3]? = some ⟨1#32, [0x64#8], true, true⟩ ∧
      (⟨1#32, [0x64#8], true, true⟩ : DictEntry).active = true := by decide

/-- O37, with the largest capacity that does not suffice and with the smallest. -/
theorem witness_TreeBuildErrors : ((tinyDict.take 1).filter (fun e => e.active)).length ≤ 1 ∧
    2 ≤ (tinyDict.filter (fun e => e.active)).length ∧
    (tinyDict.filter (fun e => e.active)).length ≤ 6 ∧
    6 < 2 * (tinyDict.filter (fun e => e.active)).length - 1 ∧
    (tinyDict.filter (fun e => e.active)).length ≤ 4 := by decide

/-- O38: the tree of a whole install has internal nodes. -/
theorem witness_TreeWeightsNeverWrap : paramsInRange flatParams = true ∧
    nodeAt (treeBuild (nodeCap flatParams) (dictBuild flatParams []).dict 0).1.pool 256 =
      .internal 20000#32 0 1 := by
  refine ⟨by decide, ?_⟩
  have h := flat_tree 0
  rw [flatDict] at h
  rw [h]
  show nodeAt flatPool 256 = _
  rw [flatPool_at 256 (by omega)]
  decide

/-- O39: no entry, and an entry of the greatest lengths. -/
theorem witness_CodeTableWindowLayout :
    let e : CodeEntry := ⟨List.replicate 15 0x41#8, List.replicate 128 true⟩
    State.reset.key.ct.length ≤ 0 ∧
      ({ State.reset with key := { tinyKey with ct := [e] } } : State).key.ct[0]? = some e ∧
      e.expr.length ≤ 15 ∧ e.code.length ≤ 128 :=
  ⟨by decide, rfl, by simp, by simp⟩

/-- A state with no key yet whose KEYMEM holds the default key text. -/
def defaultTextState : State :=
  { State.reset with mem := memWriteBytes [] keyBase referenceKey, keyLen := 30#16 }

/-- O40: the three states of the key, and an INSTALL of the default key text beside them. -/
theorem witness_KeyCheckOfPackAndUnpack :
    (tinyState [0x61#8]).srcLen.toNat ≤ (tinyState [0x61#8]).cfg.srcMax ∧
      (tinyState [0x61#8]).key.state = .valid ∧
      ({ State.reset with key := { KeyTables.reset with state := .failed } } : State).key.state = .failed ∧
      State.reset.srcLen.toNat ≤ State.reset.cfg.srcMax ∧ State.reset.key.state = .none ∧
      defaultTextState.cfg = State.reset.cfg ∧ defaultTextState.key = State.reset.key ∧
      keyText defaultTextState = State.reset.cfg.defaultKey ∧
      defaultTextState.keyLen.toNat ≤ defaultTextState.cfg.keyMax := by decide

/-- That INSTALL answers a next state. -/
theorem witness_KeyCheckOfPackAndUnpack_install : ∃ v, exec .install defaultTextState = .next v := ⟨_, rfl⟩

/-- A state with no key yet in the flat configuration. -/
def flatNoKey : State := { State.reset with cfg := flatParams }

/-- An implicit install that succeeds. -/
theorem witness_implicit_install :
    ensureKey flatNoKey = ({ flatNoKey with key := flatKey true KeyTables.reset }, none) :=
  ensureKey_installed rfl (flat_install true KeyTables.reset)

/-- O41. -/
theorem witness_PackWritesThePackedString :
    let s := tinyState [0x61#8, 0x64#8]
    paramsInRange s.cfg = true ∧ s.srcLen.toNat ≤ s.cfg.srcMax ∧ ensureKey s = (s, none) ∧
      (tokenize s.key.ct s.cfg.dstMax (sourceBytes s)).toOption = some [false, true, true, false] ∧
      (([false, true, true, false] : Bits).length + 4) / 4 + 2 ≤ s.cfg.dstMax := by decide

/-- The worked example's key in a configuration of DST_MAX bytes of DSTMEM. -/
def smallState (dstMax : Nat) (source : List Byte) : State :=
  { tinyState source with cfg := { referenceParams with dstMax := dstMax } }

/-- O41: a byte without a code is the tokenizer's error, and two nibbles with pad digit and checksum do not fit in
three bytes. -/
theorem witness_PackWritesThePackedString_errors :
    let s := tinyState [0x65#8]
    let u := smallState 3 [0x61#8, 0x64#8]
    ensureKey s = (s, none) ∧ tokenize s.key.ct s.cfg.dstMax (sourceBytes s) matches .error .encodingFailure ∧
      paramsInRange u.cfg = true ∧ ensureKey u = (u, none) ∧
      (tokenize u.key.ct u.cfg.dstMax (sourceBytes u)).toOption = some [false, true, true, false] ∧
      u.cfg.dstMax < (([false, true, true, false] : Bits).length + 4) / 4 + 2 := by decide

/-- A result that does not fit is CapacityError (43_pack.md R151). -/
theorem test_pack_overflow : nextIs (exec .pack (smallState 3 [0x61#8, 0x64#8])) (fun t =>
    t.errCode == .capacityError && t.out.dstLen == 0#16 && t.rng == 0x0001#16) = true := by decide

/-- O42: a key that is not NONE, a source that is too long. -/
theorem witness_PackAndUnpackFailuresAndFrames :
    (tinyState [0x61#8]).key.state ≠ .none ∧
      ({ tinyState [0x61#8] with srcLen := 8193#16 } : State).cfg.srcMax <
        ({ tinyState [0x61#8] with srcLen := 8193#16 } : State).srcLen.toNat := by decide

/-- O43, and of O54 its first state. -/
theorem witness_PackedStringsAreFramed :
    paramsInRange (tinyState [0x61#8, 0x64#8]).cfg = true ∧
      ∃ t, exec .pack (tinyState [0x61#8, 0x64#8]) = .next t ∧ t.errCode = .ok :=
  ⟨by decide, _, rfl, by decide⟩

/-- O44. -/
theorem witness_EmptyPayloadPacksToTwoZeros : paramsInRange (tinyState []).cfg = true ∧
    ensureKey (tinyState []) = (tinyState [], none) ∧ (tinyState []).srcLen = 0#16 := by decide

/-- O45: a match and none. -/
theorem witness_TokenizerTakesTheLongestMatch :
    longestMatch tinyCodes [0x64#8, 0x61#8] = some (1, ⟨[0x64#8], [true, true, false]⟩) ∧
      longestMatch tinyCodes [0x65#8, 0x61#8] = none ∧
      (⟨[0x64#8], [true, true, false]⟩ : CodeEntry) ∈ tinyCodes := by decide

/-- O46: no token, before the end of the input and before a byte without a code. -/
theorem witness_TokenizerSplitsThePayload (rest : List Byte) : LongestMatches tinyCodes [] rest ∧
    longestMatch tinyCodes [0x64#8] = some (([0x64#8] : List Byte).length, ⟨[0x64#8], [true, true, false]⟩) ∧
    4 * (2 - 2) < (([] : List CodeEntry).flatMap CodeEntry.code).length + ([true, true, false] : Bits).length ∧
    ([0x65#8] : List Byte) ≠ [] ∧ longestMatch tinyCodes [0x65#8] = none := by
  refine ⟨fun before e after h => ?_, by decide⟩
  simp at h

/-- O46: one token at its cursor, in a buffer of four bits that the next code would exceed. -/
theorem witness_TokenizerSplitsThePayload_one :
    LongestMatches tinyCodes [⟨[0x64#8], [true, true, false]⟩] [0x64#8] ∧
      longestMatch tinyCodes [0x64#8] = some (1, ⟨[0x64#8], [true, true, false]⟩) ∧
      (([⟨[0x64#8], [true, true, false]⟩] : List CodeEntry).flatMap CodeEntry.code).length ≤ 4 * (3 - 2) ∧
      4 * (3 - 2) < (([⟨[0x64#8], [true, true, false]⟩] : List CodeEntry).flatMap CodeEntry.code).length + 3 := by
  refine ⟨fun before e after h => ?_, by decide⟩
  cases before with
  | nil =>
    simp only [List.nil_append, List.cons.injEq] at h
    obtain ⟨rfl, rfl⟩ := h
    decide
  | cons b bs => simp at h

/-- O48. -/
theorem witness_EmptyPacketUnpacksToNothing :
    ensureKey (tinyState [0x30#8, 0x30#8]) = (tinyState [0x30#8, 0x30#8], none) ∧
      (tinyState [0x30#8, 0x30#8]).srcLen.toNat ≤ (tinyState [0x30#8, 0x30#8]).cfg.srcMax ∧
      sourceBytes (tinyState [0x30#8, 0x30#8]) = [0x30#8, 0x30#8] := by decide

/-- O49: a short source, an odd one, a pad digit next to `0` and to `7`, and a later byte that is no digit. -/
theorem witness_UnpackRefusesBadFormats :
    ensureKey (tinyState [0x31#8, 0x30#8]) = (tinyState [0x31#8, 0x30#8], none) ∧
      sourceBytes (tinyState [0x31#8, 0x30#8]) ≠ [0x30#8, 0x30#8] ∧
      (sourceBytes (tinyState [0x31#8, 0x30#8])).length ≤ 2 ∧
      (sourceBytes (tinyState [0x30#8, 0x30#8, 0x30#8])).length % 2 = 1 ∧
      (sourceBytes (tinyState [0x38#8, 0x30#8, 0x30#8, 0x30#8])).head? = some 0x38#8 ∧
      (0x37#8 : Byte) < 0x38#8 ∧ (0x2F#8 : Byte) < 0x30#8 ∧
      0x67#8 ∈ (sourceBytes (tinyState [0x30#8, 0x67#8, 0x30#8, 0x30#8])).tail ∧
      hexVal 0x67#8 = none := by decide

/-- O50: `4067`, with the pad digits' bounds. -/
theorem witness_UnpackRefusesBadChecksums :
    let s := tinyState [0x34#8, 0x30#8, 0x36#8, 0x37#8]
    ensureKey s = (s, none) ∧ s.srcLen.toNat ≤ s.cfg.srcMax ∧
      sourceBytes s = 0x34#8 :: [0x30#8, 0x36#8, 0x37#8] ∧ 0x30#8 ≤ (0x34#8 : Byte) ∧ (0x34#8 : Byte) ≤ 0x37#8 ∧
      hexVals [0x30#8, 0x36#8, 0x37#8] = some ([0x0#4, 0x6#4] ++ [0x7#4]) ∧
      ([0x0#4, 0x6#4] : List Nibble).foldr (fun a b => a ^^^ b) 0#4 ≠ 0x7#4 := by decide

/-- O51: `4066`. -/
theorem witness_UnpackWritesTheWalk :
    let s := tinyState [0x34#8, 0x30#8, 0x36#8, 0x36#8]
    paramsInRange s.cfg = true ∧ ensureKey s = (s, none) ∧ s.srcLen.toNat ≤ s.cfg.srcMax ∧
      sourceBytes s = 0x34#8 :: [0x30#8, 0x36#8, 0x36#8] ∧ 0x30#8 ≤ (0x34#8 : Byte) ∧ (0x34#8 : Byte) ≤ 0x37#8 ∧
      hexVals [0x30#8, 0x36#8, 0x36#8] = some ([0x0#4, 0x6#4] ++ [0x6#4]) ∧
      ([0x0#4, 0x6#4] : List Nibble).foldr (fun a b => a ^^^ b) 0#4 = 0x6#4 ∧
      (walk s.key s.cfg.dstMax ((([0x0#4, 0x6#4] : List Nibble).flatMap bits4).drop (0x34 - 0x30))).toOption =
        some ⟨[0x61#8, 0x64#8], 0⟩ := by decide

/-- O51: `0033` in a configuration of two bytes of DSTMEM, which six `a` do not fit. -/
theorem witness_UnpackWritesTheWalk_error :
    let s := smallState 2 [0x30#8, 0x30#8, 0x33#8, 0x33#8]
    paramsInRange s.cfg = true ∧ ensureKey s = (s, none) ∧
      hexVals [0x30#8, 0x33#8, 0x33#8] = some ([0x0#4, 0x3#4] ++ [0x3#4]) ∧
      (walk s.key s.cfg.dstMax ((([0x0#4, 0x3#4] : List Nibble).flatMap bits4).drop 0) matches
        .error .capacityError) := by decide

/-- An output that does not fit is CapacityError (44_unpack.md R169). -/
theorem test_unpack_overflow : nextIs (exec .unpack (smallState 2 [0x30#8, 0x30#8, 0x33#8, 0x33#8])) (fun t =>
    t.errCode == .capacityError && t.out.dstLen == 0#16) = true := by decide

/-- O52: two codes and a path of two bits that ends at an internal node; one byte holds one of them. -/
theorem witness_WalkDecodesCodesAndCountsTrailingBits : TablesAgree tinyKey ∧
    (∀ e ∈ tinyCodes.take 2, e ∈ tinyKey.ct) ∧
    ((tinyCodes.take 2).flatMap CodeEntry.expr).length ≤ 2 ∧
    1 < ((tinyCodes.take 2).flatMap CodeEntry.expr).length ∧
    reach tinyKey.pool tinyKey.root [true, true] = some 4 ∧
    nodeAt tinyKey.pool 4 = .internal 3#32 3 1 :=
  ⟨tinyKey_tablesAgree, by decide, by decide, by decide, by decide, by decide⟩

/-- O53: the first and the last position, a byte that is no digit and a digit of another value. -/
theorem witness_ChecksumDetectsOneChangedDigit :
    (checkFrame (0x34#8 :: [0x30#8, 0x36#8, 0x36#8])).toOption = some ⟨4, [0x0#4, 0x6#4]⟩ ∧
      0 < ([0x30#8, 0x36#8, 0x36#8] : List Byte).length ∧ 2 < ([0x30#8, 0x36#8, 0x36#8] : List Byte).length ∧
      hexVal 0x67#8 = none ∧ hexVal 0x41#8 = some 0xA#4 ∧
      (([0x30#8, 0x36#8, 0x36#8] : List Byte)[2]?.bind hexVal) ≠ some 0xA#4 := by decide

/-- O53: a source that fails its checks, `4067`. -/
theorem witness_ChecksumDetectsOneChangedDigit_unpack :
    let s := tinyState [0x34#8, 0x30#8, 0x36#8, 0x37#8]
    ensureKey s = (s, none) ∧ s.srcLen.toNat ≤ s.cfg.srcMax ∧ sourceBytes s ≠ [0x30#8, 0x30#8] ∧
      (checkFrame (sourceBytes s) matches .error .checksumError) := by decide

/-- O54: `ad` under the key of the worked example, its result `4066` in the second state's SRCMEM. -/
theorem witness_UnpackOfPackReturnsThePayload :
    let s := tinyState [0x61#8, 0x64#8]
    let u := tinyState [0x34#8, 0x30#8, 0x36#8, 0x36#8]
    (s.key.state = .valid → TablesAgree s.key) ∧ s.srcLen.toNat ≤ s.cfg.dstMax ∧ u.cfg = s.cfg ∧
      (∃ t, exec .pack s = .next t ∧ t.errCode = .ok ∧ u.key = t.key ∧ u.srcLen = t.out.dstLen ∧
        u.srcLen.toNat ≤ u.cfg.srcMax ∧ sourceBytes u = resultBytes t) :=
  ⟨fun _ => tinyKey_tablesAgree, by decide, rfl, _, rfl, by decide, by decide, by decide, by decide, by decide⟩

/-- O55, O58 and O59: a state with a VALID key that meets both invariants, and its step. -/
theorem witness_invariants : Inv flatState ∧ CodesInv flatState ∧ ∃ t, step flatState = .next t :=
  ⟨flatState_invs.1, flatState_invs.2.1, _, rfl⟩

/-- O56, each clause. -/
theorem witness_KeyStateChangesOnlyAsListed :
    let due := fun (w : Word) (s : State) => ({ s with engine := .running w 0 } : State)
    (due 1#32 { State.reset with keyLen := 4097#16 }).cfg.keyMax <
        (due 1#32 { State.reset with keyLen := 4097#16 }).keyLen.toNat ∧
      decodeWord 1#32 = .install ∧ (due 1#32 State.reset).keyLen.toNat ≤ (due 1#32 State.reset).cfg.keyMax ∧
      decodeWord 2#32 = .pack ∧ (due 2#32 (tinyState [])).key.state ≠ .none ∧
      (due 3#32 { State.reset with key := { KeyTables.reset with state := .failed } }).key.state = .failed ∧
      (due 2#32 State.reset).key.state = .none ∧ (due 2#32 State.reset).srcLen.toNat ≤ State.reset.cfg.srcMax ∧
      State.reset.cfg.srcMax < (due 2#32 { State.reset with srcLen := 8193#16 }).srcLen.toNat ∧
      decodeWord 0xF#32 = .reset ∧ decodeWord 0#32 = .illegal 0#4 0#28 ∧
      State.reset.queue.head? ≠ some .hardReset ∧
      ({ State.reset with queue := [.hardReset] } : State).queue.head? = some .hardReset := by decide

/-- O56: an idle engine runs no command. -/
theorem witness_KeyStateChangesOnlyAsListed_idle : ∀ w, State.reset.engine ≠ .running w 0 := by
  intro w h
  cases h

/-- An idle core with a result of two bytes. -/
def resultState (q : List HostOp) : State :=
  { State.reset with out := { State.reset.out with dstLen := 2#16 }, queue := q }

/-- O60: the first byte of a text, and an idle core with WAIT and with READDST as the next operation. -/
theorem witness_PseudoStatementsExpand :
    ([0x74#8, 0x72#8] : List Byte)[0]? = some 0x74#8 ∧
      (resultState [.wait, .readDst]).busy = false ∧
      (resultState [.wait, .readDst]).queue = .wait :: [.readDst] ∧
      (resultState [.readDst, .wait]).busy = false ∧
      (resultState [.readDst, .wait]).queue = .readDst :: [.wait] := by decide

/-- READDST of a two-byte result reads 2 and leaves RDB 0x04000 and RDB 0x04001 (30_encoding.md R92). -/
theorem test_readdst_reads_the_result :
    (match step (resultState [.readDst, .wait]) with
      | .next t => t.port == .readData 2#32 && t.queue == [.read 0x04000#20 1, .read 0x04001#20 1, .wait]
      | _ => false) = true := by decide

end Sys2Proof.Tests
end

section
/-! PROOFS. Register words bit by bit: where `flagAt` and `fieldAt` put a field, and what the slices of every
register's word are (10_state.md R24 to R41). -/

namespace Sys2Proof.Machine

/-! ### Fields of a register word -/

theorem getLsbD_fieldAt {n : Nat} (v : BitVec n) (i j : Nat) :
    (fieldAt v i).getLsbD j = (decide (j < 32) && decide (i ≤ j) && v.getLsbD (j - i)) := by
  rw [fieldAt, BitVec.getLsbD_shiftLeft, BitVec.getLsbD_setWidth]
  by_cases hij : i ≤ j
  · have hsub : j < 32 → j - i < 32 := by omega
    by_cases hj : j < 32 <;> simp [hj, hij, hsub]
  · simp [hij, Nat.lt_of_not_le hij]

/-- A flag is a field one bit wide. -/
theorem flagAt_eq_fieldAt (b : Bool) (i : Nat) : flagAt b i = fieldAt (BitVec.ofBool b) i := rfl

theorem getLsbD_flagAt (b : Bool) (i j : Nat) :
    (flagAt b i).getLsbD j = (decide (j < 32) && decide (j = i) && b) := by
  rw [flagAt_eq_fieldAt, getLsbD_fieldAt, BitVec.getLsbD_ofBool]
  have hbit : (i ≤ j ∧ j - i = 0) ↔ j = i := by omega
  simp only [← Bool.and_assoc, ← Bool.decide_and, and_assoc, hbit]

/-- The slice at a field's own bits is the field. -/
theorem extractLsb'_fieldAt_self {n : Nat} (v : BitVec n) (i : Nat) (h : i + n ≤ 32) :
    (fieldAt v i).extractLsb' i n = v := by
  refine BitVec.eq_of_getLsbD_eq fun k hk => ?_
  have hlt : i + k < 32 := by omega
  rw [BitVec.getLsbD_extractLsb', getLsbD_fieldAt]
  simp [hk, hlt]

/-- A slice that lies beside a field is 0. -/
theorem extractLsb'_fieldAt_beside {n : Nat} (v : BitVec n) (i j m : Nat) (h : j + m ≤ i ∨ i + n ≤ j) :
    (fieldAt v i).extractLsb' j m = 0#m := by
  refine BitVec.eq_of_getLsbD_eq fun k hk => ?_
  rw [BitVec.getLsbD_extractLsb', getLsbD_fieldAt, BitVec.getLsbD_zero]
  rcases h with hbelow | habove
  · have : ¬ i ≤ j + k := by omega
    simp [this]
  · simp [BitVec.getLsbD_of_ge v (j + k - i) (by omega)]

/-- A slice that does not hold a flag's bit is 0. -/
theorem extractLsb'_flagAt_beside (b : Bool) (i j m : Nat) (h : j + m ≤ i ∨ i + 1 ≤ j) :
    (flagAt b i).extractLsb' j m = 0#m :=
  extractLsb'_fieldAt_beside (BitVec.ofBool b) i j m h

/-- A register of one field at bit 0: the field, and 0 above it. -/
theorem fieldAt_zero_slices {n : Nat} (v : BitVec n) (m : Nat) (h : n ≤ 32) :
    (fieldAt v 0).extractLsb' 0 n = v ∧ (fieldAt v 0).extractLsb' n m = 0#m :=
  ⟨extractLsb'_fieldAt_self v 0 (by omega), extractLsb'_fieldAt_beside v 0 n m (by omega)⟩

/-! ### The words of the registers with several fields -/

/-- The flags of STATUS and its reserved bits 3 and 7. -/
theorem statusWord_flags (s : State) :
    (statusWord s).getLsbD 0 = s.busy ∧ (statusWord s).getLsbD 1 = s.done ∧ (statusWord s).getLsbD 2 = s.err ∧
      (statusWord s).getLsbD 3 = false ∧ (statusWord s).getLsbD 6 = s.key.defaultKey ∧
      (statusWord s).getLsbD 7 = false ∧ (statusWord s).getLsbD 8 = s.key.lineInvalid ∧
      (statusWord s).getLsbD 9 = s.key.dictFull ∧ (statusWord s).getLsbD 10 = s.out.trailWarn := by
  simp only [statusWord, BitVec.getLsbD_or, getLsbD_flagAt, getLsbD_fieldAt]
  simp

/-- KEY_STATE and the reserved bits 11 to 31 of STATUS. -/
theorem statusWord_slices (s : State) :
    (statusWord s).extractLsb' 4 2 = keyStateBits s.key.state ∧ (statusWord s).extractLsb' 11 21 = 0#21 := by
  simp (disch := omega) [statusWord, BitVec.extractLsb'_or, extractLsb'_fieldAt_self,
    extractLsb'_fieldAt_beside, extractLsb'_flagAt_beside]

theorem dictInfoWord_slices (s : State) :
    (dictInfoWord s).extractLsb' 0 8 = s.key.customCount ∧ (dictInfoWord s).extractLsb' 8 8 = 0#8 ∧
      (dictInfoWord s).extractLsb' 16 9 = s.key.leafCount ∧ (dictInfoWord s).extractLsb' 25 7 = 0#7 := by
  simp (disch := omega) [dictInfoWord, BitVec.extractLsb'_or, extractLsb'_fieldAt_self,
    extractLsb'_fieldAt_beside]

theorem lineInfoWord_slices (s : State) :
    (lineInfoWord s).extractLsb' 0 16 = s.key.invalidLines ∧
      (lineInfoWord s).extractLsb' 16 16 = s.key.fullLines := by
  simp (disch := omega) [lineInfoWord, BitVec.extractLsb'_or, extractLsb'_fieldAt_self,
    extractLsb'_fieldAt_beside]

theorem codeInfoWord_slices (s : State) :
    (codeInfoWord s).extractLsb' 0 8 = s.key.minLen ∧ (codeInfoWord s).extractLsb' 8 8 = s.key.maxLen ∧
      (codeInfoWord s).extractLsb' 16 9 = s.key.infoCount ∧ (codeInfoWord s).extractLsb' 25 7 = 0#7 := by
  simp (disch := omega) [codeInfoWord, BitVec.extractLsb'_or, extractLsb'_fieldAt_self,
    extractLsb'_fieldAt_beside]

theorem param0Word_slices (s : State) :
    (param0Word s).extractLsb' 0 8 = BitVec.ofNat 8 s.cfg.customMax ∧
      (param0Word s).extractLsb' 8 8 = BitVec.ofNat 8 maxExprLen ∧
      (param0Word s).extractLsb' 16 8 = BitVec.ofNat 8 maxCodeLen ∧ (param0Word s).extractLsb' 24 8 = 0#8 := by
  simp (disch := omega) [param0Word, BitVec.extractLsb'_or, extractLsb'_fieldAt_self,
    extractLsb'_fieldAt_beside]

theorem param2Word_slices (s : State) :
    (param2Word s).extractLsb' 0 16 = BitVec.ofNat 16 s.cfg.srcMax ∧
      (param2Word s).extractLsb' 16 16 = BitVec.ofNat 16 s.cfg.dstMax := by
  simp (disch := omega) [param2Word, BitVec.extractLsb'_or, extractLsb'_fieldAt_self,
    extractLsb'_fieldAt_beside]

/-- Settles O17: the slices of each register's word, register by register. -/
theorem registerFieldsStandAtTheirBits : Obligations.RegisterFieldsStandAtTheirBits := by
  intro s
  obtain ⟨h0, h1, h2, h3, h6, h7, h8, h9, h10⟩ := statusWord_flags s
  obtain ⟨hkey, hreserved⟩ := statusWord_slices s
  refine ⟨⟨h0, h1, h2, h3, hkey, h6, h7, h8, h9, h10, hreserved⟩, dictInfoWord_slices s,
    lineInfoWord_slices s, codeInfoWord_slices s, param0Word_slices s, param2Word_slices s, ?_, rfl,
    fieldAt_zero_slices (BitVec.ofNat 16 s.cfg.keyMax) 16 (by omega),
    fieldAt_zero_slices s.cmdLast 28 (by omega), fieldAt_zero_slices s.keyLen 16 (by omega),
    fieldAt_zero_slices s.srcLen 16 (by omega), fieldAt_zero_slices s.out.dstLen 16 (by omega),
    fieldAt_zero_slices s.out.pad 29 (by omega), fieldAt_zero_slices s.out.trail 24 (by omega),
    fieldAt_zero_slices s.irqEn 29 (by omega), fieldAt_zero_slices s.irqStatus 29 (by omega),
    fieldAt_zero_slices s.rng 16 (by omega)⟩
  rw [regValue]
  cases s.errCode <;> rfl

end Sys2Proof.Machine
end

section
/-! PROOFS. What a legal access of the host port answers and does, by the region of its address, and the
statements O16 and O12 about reads and about writes while idle. -/

namespace Sys2Proof.Machine

/-! ### Register accesses -/

@[simp] theorem regAt_regOffset (r : Reg) : regAt (regOffset r).toNat = some r := by cases r <;> rfl

@[simp] theorem regionAt_regOffset (p : Params) (r : Reg) : regionAt p (regOffset r).toNat = .regs := by
  have hlt : (regOffset r).toNat < 0x100 := by cases r <;> decide
  rw [regionAt, if_pos hlt]

/-- A word access at a register's offset is legal (20_memory.md R56). -/
theorem accessLegal_regOffset (p : Params) (isWrite : Bool) (r : Reg) :
    accessLegal p isWrite (regOffset r).toNat 4 = true := by
  have haligned : aligned (regOffset r).toNat 4 = true := by cases r <;> decide
  simp [accessLegal, haligned]

/-- A legal read answers its value. -/
theorem hostRead_port {s : State} {a : BitVec 20} {n : Nat} (h : accessLegal s.cfg false a.toNat n = true) :
    (hostRead a n s).port = .readData (readValue s a.toNat n) := by
  rw [hostRead, if_pos h]

/-- A word read at a register's offset answers the register's read value. -/
theorem hostRead_register_port (s : State) (r : Reg) :
    (hostRead (regOffset r) 4 s).port = .readData (readReg s r) := by
  rw [hostRead_port (accessLegal_regOffset s.cfg false r)]
  simp [readValue]

/-- A word write at a register's offset is the register's write. -/
theorem hostWrite_register (s : State) (r : Reg) (v : Word) :
    hostWrite (regOffset r) 4 v s = { writeReg r v s with port := .writeDone } := by
  rw [hostWrite, if_pos (accessLegal_regOffset s.cfg true r)]
  simp [writeEffect]

theorem whenIdle_of_idle {s : State} (effect : State → State) (h : s.busy = false) :
    whenIdle effect s = effect s := by
  simp [whenIdle, h]

/-! ### The read value of a register -/

theorem readReg_of_idle {s : State} (r : Reg) (h : s.busy = false) : readReg s r = regValue s r := by
  simp [readReg, h]

/-- A bit outside a register's draw mask reads exactly, BUSY or not (10_state.md R48). -/
theorem readReg_getLsbD {s : State} {r : Reg} {i : Nat} (hi : i < 32) (h : (drawMask r).getLsbD i = false) :
    (readReg s r).getLsbD i = (regValue s r).getLsbD i := by
  unfold readReg
  split
  · rw [BitVec.getLsbD_or, BitVec.getLsbD_and, BitVec.getLsbD_and, BitVec.getLsbD_not, h]
    simp [hi]
  · rfl

/-- A register without drawn bits reads exactly, BUSY or not (10_state.md R48). -/
theorem readReg_of_drawMask_zero (s : State) {r : Reg} (h : drawMask r = 0#32) : readReg s r = regValue s r :=
  BitVec.eq_of_getLsbD_eq fun _ hi => readReg_getLsbD hi (by simp [h])

/-! ### Window accesses -/

theorem length_bytesAt (s : State) (a n : Nat) : (bytesAt s a n).length = n := by simp [bytesAt]

/-- Byte `i` of the little-endian word of a list of bytes is element `i`, 0 past the end (20_memory.md R57). -/
theorem wordOf_extractLsb' : ∀ (bs : List Byte) (i : Nat), i < 4 →
    (wordOf bs).extractLsb' (8 * i) 8 = bs[i]?.getD 0#8
  | [], i, _ => by simp [wordOf]
  | b :: bs, 0, _ => by
    refine BitVec.eq_of_getLsbD_eq fun k hk => ?_
    have hlt : k < 32 := by omega
    rw [BitVec.getLsbD_extractLsb', wordOf, BitVec.getLsbD_or, BitVec.getLsbD_shiftLeft,
      BitVec.getLsbD_setWidth]
    simp [hk, hlt]
  | b :: bs, i + 1, hi => by
    have ih := wordOf_extractLsb' bs i (by omega)
    rw [List.getElem?_cons_succ, ← ih]
    refine BitVec.eq_of_getLsbD_eq fun k hk => ?_
    have hlt : 8 * (i + 1) + k < 32 := by omega
    have hge : ¬ 8 * (i + 1) + k < 8 := by omega
    have hsub : 8 * (i + 1) + k - 8 = 8 * i + k := by omega
    have hhigh : b.getLsbD (8 * (i + 1) + k) = false := BitVec.getLsbD_of_ge _ _ (by omega)
    rw [BitVec.getLsbD_extractLsb', BitVec.getLsbD_extractLsb', wordOf, BitVec.getLsbD_or,
      BitVec.getLsbD_shiftLeft, BitVec.getLsbD_setWidth, hhigh, hsub]
    simp [hlt, hge]

/-- The bytes of the word of `n` bytes `f 0`, `f 1`, …, zero-extended. -/
theorem wordOf_map_range_extractLsb' (f : Nat → Byte) (n i : Nat) (hi : i < 4) :
    (wordOf ((List.range n).map f)).extractLsb' (8 * i) 8 = if i < n then f i else 0#8 := by
  rw [wordOf_extractLsb' _ _ hi, List.getElem?_map]
  by_cases hn : i < n
  · simp [hn]
  · simp [hn]

/-- KEYMEM and SRCMEM read exactly in every state (10_state.md R48). -/
theorem readValue_of_input_window {s : State} {a : Nat} (n : Nat)
    (h : regionAt s.cfg a = .keyMem ∨ regionAt s.cfg a = .srcMem) :
    readValue s a n = wordOf (bytesAt s a n) := by
  rcases h with h | h <;> simp [readValue, h]

theorem readValue_dstMem_of_idle {s : State} {a : Nat} (n : Nat) (hidle : s.busy = false)
    (h : regionAt s.cfg a = .dstMem) : readValue s a n = wordOf (bytesAt s a n) := by
  simp [readValue, h, hidle]

theorem readValue_ctMem_of_idle {s : State} {a : Nat} (n : Nat) (hidle : s.busy = false)
    (h : regionAt s.cfg a = .ctMem) :
    readValue s a n = wordOf ((List.range n).map (fun i => ctByte s (a + i))) := by
  simp [readValue, h, hidle]

/-- Settles O16: register reads by the draw mask, window reads by the bytes of `wordOf`. -/
theorem busyReadsAreExactWhereTheHandshakeNeedsIt : Obligations.BusyReadsAreExactWhereTheHandshakeNeedsIt := by
  refine ⟨fun s r => readReg_of_idle r, fun s r hr => ?_, fun s => ⟨?_, ?_⟩,
    fun s a n => readValue_of_input_window n, fun s a r h => ?_, fun s a n hlegal hregion => ?_,
    fun s a n hlegal hidle hregion => ?_⟩
  · have hexact : ∀ r ∈ [Reg.id, .param0, .param1, .param2, .cmd, .irqEn, .irqStatus, .keyLen, .srcLen],
        drawMask r = 0#32 := by decide
    exact readReg_of_drawMask_zero s (hexact r hr)
  · exact (readReg_getLsbD (by omega) (by decide)).trans (statusWord_flags s).1
  · exact (readReg_getLsbD (by omega) (by decide)).trans (statusWord_flags s).2.1
  · obtain rfl : regOffset r = a := by
      change regOffset (a, r).2 = (a, r).1
      generalize (a, r) = q at h ⊢
      revert q
      decide
    exact ⟨rfl, hostRead_register_port s r⟩
  · have hvalue : readValue s a.toNat n = wordOf (bytesAt s a.toNat n) := by
      rcases hregion with h | h | ⟨hidle, h⟩
      · exact readValue_of_input_window n (.inl h)
      · exact readValue_of_input_window n (.inr h)
      · exact readValue_dstMem_of_idle n hidle h
    exact ⟨_, (hostRead_port hlegal).trans (by rw [hvalue, bytesAt]),
      fun i => wordOf_map_range_extractLsb' (fun i => byteAt s (a.toNat + i)) n i⟩
  · exact ⟨_, (hostRead_port hlegal).trans (by rw [readValue_ctMem_of_idle n hidle hregion]),
      fun i => wordOf_map_range_extractLsb' (fun i => ctByte s (a.toNat + i)) n i⟩

/-! ### Writes while idle -/

theorem length_bytesOf (n : Nat) (v : Word) : (bytesOf n v).length = n := by simp [bytesOf]

theorem getElem?_bytesOf {n i : Nat} (v : Word) (h : i < n) :
    (bytesOf n v)[i]? = some (v.extractLsb' (8 * i) 8) := by
  simp [bytesOf, h]

/-- A legal idle write to a data window writes the low bytes of the value, lowest address first. -/
theorem hostWrite_window {s : State} {a : BitVec 20} {n : Nat} (v : Word) (hidle : s.busy = false)
    (hwindow : inDataWindow s.cfg a.toNat = true) (hlegal : accessLegal s.cfg true a.toNat n = true) :
    hostWrite a n v s =
      { s with mem := memWriteBytes s.mem a.toNat (bytesOf n v), port := .writeDone } := by
  rw [hostWrite, if_pos hlegal]
  cases hregion : regionAt s.cfg a.toNat with
  | keyMem | srcMem | dstMem => simp [writeEffect, hregion, writeWindow, whenIdle_of_idle _ hidle]
  | regs | ctMem | reserved => simp [inDataWindow, hregion] at hwindow

/-- What a data window holds after bytes have been written into the memory list. -/
theorem byteAt_memWriteBytes (s : State) (r : PortResponse) (bs : List Byte) (a x : Nat) :
    byteAt { s with mem := memWriteBytes s.mem a bs, port := r } x =
      if a ≤ x ∧ x < a + bs.length then bs[x - a]?.getD 0#8 else byteAt s x := by
  simp only [byteAt, memRead_memWriteBytes]
  by_cases hx : a ≤ x ∧ x < a + bs.length
  · have hget : x - a < bs.length := by omega
    simp [hx, hget]
  · simp only [hx, if_false]
    rfl

/-- Settles O12: register writes by their offsets, window writes byte by byte. -/
theorem writesWhileIdleTakeEffect : Obligations.WritesWhileIdleTakeEffect := by
  refine ⟨fun s v hidle => ⟨?_, ?_, ?_⟩, fun s a n v hidle hwindow hlegal =>
    ⟨_, hostWrite_window v hidle hwindow hlegal, fun x => ?_⟩⟩
  · exact (hostWrite_register s .keyLen v).trans (by rw [writeReg, whenIdle_of_idle _ hidle])
  · exact (hostWrite_register s .srcLen v).trans (by rw [writeReg, whenIdle_of_idle _ hidle])
  · exact (hostWrite_register s .rngState v).trans (by rw [writeReg, whenIdle_of_idle _ hidle])
  · rw [byteAt_memWriteBytes, length_bytesOf]
    split
    · rw [getElem?_bytesOf v (by omega), Option.getD_some]
    · rfl

end Sys2Proof.Machine
end

section
/-! PROOFS. Which codes each unit of an install, of PACK and of UNPACK can raise, and that a walk down a tree
the code generator has visited never fails with TraversalFailure (42_code_table.md R134, 44_unpack.md R167). -/

namespace Sys2Proof.Machine

/-- The codes of a fatal install error (40_install.md R109, 60_exceptions.md R207). -/
abbrev fatalCodes : List ErrCode := [.treeBuildFailure, .codeTooLong, .traversalFailure, .allocationFailure]

/-! ### The code generator's visit, by the kind of the node -/

section
variable {pool : List Node} {dict : List DictEntry} {n : Nat} {path : Bits}

theorem visit_of_empty (room : Nat) (hn : nodeAt pool n = .empty) :
    visit pool dict n path room = .error .traversalFailure := by
  cases room <;> simp [visit, hn]

theorem visit_of_leaf {w : Word} {dix : Nat} (room : Nat) (hn : nodeAt pool n = .leaf w dix) :
    visit pool dict n path room = .ok [⟨(dictAt dict dix).expr, path⟩] := by
  cases room <;> simp [visit, hn]

theorem visit_of_internal_zero {w : Word} {l r : Nat} (hn : nodeAt pool n = .internal w l r) :
    visit pool dict n path 0 = .error .codeTooLong := by
  simp [visit, hn]

/-- A visit of an internal node that records its entries has room, and so have the visits of both children. -/
theorem visit_of_internal_ok {w : Word} {l r room : Nat} {ct : List CodeEntry}
    (hn : nodeAt pool n = .internal w l r) (h : visit pool dict n path room = .ok ct) :
    ∃ left ls rs, room = left + 1 ∧ visit pool dict l (path ++ [false]) left = .ok ls ∧
      visit pool dict r (path ++ [true]) left = .ok rs ∧ ct = ls ++ rs := by
  cases room with
  | zero => simp [visit_of_internal_zero hn] at h
  | succ left =>
    simp only [visit, hn] at h
    split at h
    · cases h
    · rename_i ls hl
      split at h
      · cases h
      · rename_i rs hr
        exact ⟨left, ls, rs, rfl, hl, hr, by simpa using h.symm⟩

/-- The visit raises TraversalFailure and CodeTooLong only (42_code_table.md R133, R134). -/
theorem visit_error {room : Nat} {e : ErrCode} (h : visit pool dict n path room = .error e) :
    e = .traversalFailure ∨ e = .codeTooLong := by
  induction room generalizing n path e with
  | zero =>
    cases hn : nodeAt pool n with
    | empty =>
      cases (visit_of_empty 0 hn).symm.trans h
      exact .inl rfl
    | leaf w dix => simp [visit_of_leaf 0 hn] at h
    | internal w l r =>
      cases (visit_of_internal_zero hn).symm.trans h
      exact .inr rfl
  | succ room ih =>
    cases hn : nodeAt pool n with
    | empty =>
      cases (visit_of_empty (room + 1) hn).symm.trans h
      exact .inl rfl
    | leaf w dix => simp [visit_of_leaf (room + 1) hn] at h
    | internal w l r =>
      simp only [visit, hn] at h
      split at h
      · rename_i hl
        cases h
        exact ih hl
      · split at h
        · rename_i hr
          cases h
          exact ih hr
        · cases h

end

/-! ### The subtrees a walk can meet -/

/-- The code generator has recorded entries for the whole subtree of a node. -/
def Visited (pool : List Node) (n : Nat) : Prop :=
  ∃ dict path room ct, visit pool dict n path room = .ok ct

theorem Visited.ne_empty {pool : List Node} {n : Nat} (h : Visited pool n) : nodeAt pool n ≠ .empty := by
  obtain ⟨dict, path, room, ct, hv⟩ := h
  intro hn
  simp [visit_of_empty room hn] at hv

/-- Every edge of a visited internal node leads to a visited node. -/
theorem Visited.child {pool : List Node} {n : Nat} {w : Word} {l r : Nat} (h : Visited pool n)
    (hn : nodeAt pool n = .internal w l r) (b : Bool) :
    ∃ m, childOf (nodeAt pool n) b = some m ∧ Visited pool m := by
  obtain ⟨dict, path, room, ct, hv⟩ := h
  obtain ⟨left, ls, rs, -, hl, hr, -⟩ := visit_of_internal_ok hn hv
  rw [hn]
  cases b with
  | false => exact ⟨l, rfl, dict, _, left, ls, hl⟩
  | true => exact ⟨r, rfl, dict, _, left, rs, hr⟩

/-- Key tables a walk never leaves: ROOT is an internal node and its subtree has been visited. -/
structure Walkable (k : KeyTables) : Prop where
  rootInternal : ∃ w l r, nodeAt k.pool k.root = .internal w l r
  visited : Visited k.pool k.root

/-- From a visited internal node of walkable tables the walk raises CapacityError only. -/
theorem walkFrom_error {k : KeyTables} (hk : Walkable k) (dstMax : Nat) {e : ErrCode} :
    ∀ (bits : Bits) (n d : Nat) (out : List Byte), Visited k.pool n →
      (∃ w l r, nodeAt k.pool n = .internal w l r) →
      walkFrom k dstMax n d out bits = .error e → e = .capacityError
  | [], _, _, _, _, _, h => by simp [walkFrom] at h
  | b :: bs, n, d, out, hv, ⟨w, l, r, hn⟩, h => by
    obtain ⟨m, hchild, hm⟩ := hv.child hn b
    simp only [walkFrom, hchild] at h
    cases hnode : nodeAt k.pool m with
    | empty => exact absurd hnode hm.ne_empty
    | internal w' l' r' =>
      simp only [hnode] at h
      exact walkFrom_error hk dstMax bs m (d + 1) out hm ⟨w', l', r', hnode⟩ h
    | leaf w' dix =>
      simp only [hnode] at h
      split at h
      · cases h
        rfl
      · exact walkFrom_error hk dstMax bs k.root 0 _ hk.visited hk.rootInternal h

theorem walk_error {k : KeyTables} (hk : Walkable k) {dstMax : Nat} {bits : Bits} {e : ErrCode}
    (h : walk k dstMax bits = .error e) : e = .capacityError :=
  walkFrom_error hk dstMax bits k.root 0 [] hk.visited hk.rootInternal h

/-! ### The tree builder and the install -/

/-- The loop raises TreeBuildFailure and AllocationFailure only (41_tree_builder.md R122, R124). -/
theorem mergeLoop_error (cap : Nat) : ∀ (n : Nat) (t : TreeState) {e : ErrCode},
    (mergeLoop cap t n).2 = some e → e = .treeBuildFailure ∨ e = .allocationFailure
  | 0, t, e, h => by
    cases h
    exact .inl rfl
  | n + 1, t, e, h => by
    rw [mergeLoop] at h
    split at h
    · cases h
      exact .inl rfl
    · split at h
      · cases h
      · split at h
        · cases h
          exact .inr rfl
        · exact mergeLoop_error cap n _ h

/-- A tree builder that raises nothing leaves a root that is no leaf (41_tree_builder.md R123); one that raises
an error raises TreeBuildFailure or AllocationFailure. -/
theorem treeBuild_cases (cap : Nat) (dict : List DictEntry) (root : Nat) :
    ((treeBuild cap dict root).2 = none ∧ ∀ w dix,
      nodeAt (treeBuild cap dict root).1.pool (treeBuild cap dict root).1.root ≠ .leaf w dix) ∨
    (treeBuild cap dict root).2 = some .treeBuildFailure ∨
    (treeBuild cap dict root).2 = some .allocationFailure := by
  rw [treeBuild]
  rcases hloop : mergeLoop cap (makeLeaves dict root) (makeLeaves dict root).pool.length with ⟨t, _ | e⟩
  · cases hroot : nodeAt t.pool t.root <;> simp [checkRoot, hroot]
  · have he := mergeLoop_error cap _ _ (congrArg Prod.snd hloop)
    exact .inr (he.imp (congrArg some) (congrArg some))

/-- An install raises fatal codes only (40_install.md R109). -/
theorem installKey_error {p : Params} {t : List Byte} {implicit : Bool} {k : KeyTables} {e : ErrCode}
    (h : (installKey p t implicit k).2 = .error e) : e ∈ fatalCodes := by
  rcases htree : treeBuild (nodeCap p) (dictBuild p t).dict k.root with ⟨tree, _ | e'⟩
  · cases hcode : codeGen tree.pool (dictBuild p t).dict tree.root with
    | ok ct => simp [installKey, htree, finishInstall, hcode] at h
    | error e' =>
      obtain rfl : e' = e := by simpa [installKey, htree, finishInstall, hcode] using h
      rcases visit_error hcode with rfl | rfl <;> decide
  · obtain rfl : e' = e := by simpa [installKey, htree] using h
    rcases treeBuild_cases (nodeCap p) (dictBuild p t).dict k.root with ⟨hnone, -⟩ | hsome | hsome
    · simp [htree] at hnone
    · obtain rfl : e' = .treeBuildFailure := by simpa [htree] using hsome
      decide
    · obtain rfl : e' = .allocationFailure := by simpa [htree] using hsome
      decide

/-- The code a successful install reports is no fatal one (40_install.md R110). -/
theorem installCode_not_fatal (invalidLines fullLines : Nat) :
    installCode invalidLines fullLines ∉ fatalCodes := by
  unfold installCode
  split
  · decide
  · split <;> decide

/-- An install either reports a fatal code and leaves KEY_STATE FAILED, or reports another code and leaves
KEY_STATE VALID with tables a walk never leaves. -/
theorem installKey_outcome (p : Params) (t : List Byte) (implicit : Bool) (k : KeyTables) :
    (∃ e ∈ fatalCodes, (installKey p t implicit k).2 = .error e ∧
      (installKey p t implicit k).1.state = .failed) ∨
    (∃ c ∉ fatalCodes, (installKey p t implicit k).2 = .ok c ∧
      (installKey p t implicit k).1.state = .valid ∧ Walkable (installKey p t implicit k).1) := by
  rcases installKey_cases p t implicit k with ⟨e, herr, hfailed, -, -⟩ | ⟨tree, ct, htree, hcode, hok, hkey⟩
  · exact .inl ⟨e, installKey_error herr, herr, hfailed⟩
  · have hvisited : Visited tree.pool tree.root := ⟨_, _, _, ct, hcode⟩
    have hinternal : ∃ w l r, nodeAt tree.pool tree.root = .internal w l r := by
      have hleaf : ∀ w dix, nodeAt tree.pool tree.root ≠ .leaf w dix := by
        simpa [htree] using treeBuild_cases (nodeCap p) (dictBuild p t).dict k.root
      cases hroot : nodeAt tree.pool tree.root with
      | empty => exact absurd hroot hvisited.ne_empty
      | leaf w dix => exact absurd hroot (hleaf w dix)
      | internal w l r => exact ⟨w, l, r, rfl⟩
    exact .inr ⟨_, installCode_not_fatal _ _, hok, by rw [hkey]; rfl, by rw [hkey]; exact ⟨hinternal, hvisited⟩⟩

/-! ### The codes of PACK and UNPACK once a key is VALID -/

/-- The tokenizer raises EncodingFailure and CapacityError only (43_pack.md R144, R145). -/
theorem tokenizeFrom_error (ct : List CodeEntry) (dstMax : Nat) {e : ErrCode} :
    ∀ (input : List Byte) (skip : Nat) (bits : Bits), tokenizeFrom ct dstMax skip bits input = .error e →
      e = .encodingFailure ∨ e = .capacityError
  | [], _, _, h => by simp [tokenizeFrom] at h
  | _ :: rest, skip + 1, bits, h => tokenizeFrom_error ct dstMax rest skip bits h
  | _ :: rest, 0, bits, h => by
    simp only [tokenizeFrom] at h
    split at h
    · cases h
      exact .inl rfl
    · split at h
      · cases h
        exact .inr rfl
      · exact tokenizeFrom_error ct dstMax rest _ _ h

/-- The frame check raises FormatError and ChecksumError only (44_unpack.md R164, R165). -/
theorem checkFrame_error {source : List Byte} {e : ErrCode} (h : checkFrame source = .error e) :
    e = .formatError ∨ e = .checksumError := by
  cases source with
  | nil =>
    cases h
    exact .inl rfl
  | cons c cs =>
    simp only [checkFrame] at h
    split at h
    · cases h
      exact .inl rfl
    · split at h
      · cases h
        exact .inl rfl
      · split at h
        · cases h
          exact .inl rfl
        · rw [checkSum] at h
          split at h
          · cases h
          · cases h
            exact .inr rfl

theorem packPayload_key (s : State) : (packPayload s).key = s.key := by
  rcases packPayload_cases s with ⟨e, h, -⟩ | ⟨bits, -, hfit, h⟩
  · simp [h]
  · rw [h, packBits, if_neg (by omega)]
    rfl

theorem unpackSource_key (s : State) : (unpackSource s).key = s.key := by
  rcases unpackSource_cases s with ⟨-, h⟩ | ⟨e, h⟩ | ⟨f, w, -, -, h⟩ <;> simp [h]

theorem packPayload_not_fatal (s : State) : (packPayload s).errCode ∉ fatalCodes := by
  rcases packPayload_cases s with ⟨e, h, hcode⟩ | ⟨bits, -, hfit, h⟩
  · rw [h, complete_errCode]
    have he : e = .encodingFailure ∨ e = .capacityError := by
      rcases hcode with herr | hcap
      · exact tokenizeFrom_error _ _ _ _ _ herr
      · exact .inr hcap
    rcases he with rfl | rfl <;> decide
  · rw [h, packBits, if_neg (by omega), complete_errCode]
    decide

theorem unpackSource_not_fatal (s : State) (hk : Walkable s.key) : (unpackSource s).errCode ∉ fatalCodes := by
  rw [unpackSource]
  split
  · rw [complete_errCode]
    decide
  · split
    · rename_i e hframe
      rw [raiseError_eq, complete_errCode]
      rcases checkFrame_error hframe with rfl | rfl <;> decide
    · rw [unpackFrame]
      split
      · rename_i e hwalk
        rw [raiseError_eq, complete_errCode, walk_error hk hwalk]
        decide
      · rw [complete_errCode]
        decide

end Sys2Proof.Machine
end

section
/-! PROOFS. What each step does to the key tables (10_state.md R46), and the statement O56. -/

namespace Sys2Proof.Machine

/-! ### Steps of the outside world -/

@[simp] theorem hostRead_key (a : BitVec 20) (n : Nat) (s : State) : (hostRead a n s).key = s.key := by
  unfold hostRead
  split <;> rfl

theorem whenIdle_key {effect : State → State} (h : ∀ s, (effect s).key = s.key) (s : State) :
    (whenIdle effect s).key = s.key := by
  unfold whenIdle
  split
  · rfl
  · exact h s

@[simp] theorem onCmdWrite_key (v : Word) (s : State) : (onCmdWrite v s).key = s.key := by
  unfold onCmdWrite
  split <;> rfl

@[simp] theorem writeReg_key (r : Reg) (v : Word) (s : State) : (writeReg r v s).key = s.key := by
  cases r with
  | cmd => exact onCmdWrite_key v s
  | keyLen | srcLen | rngState =>
    refine whenIdle_key ?_ s
    exact fun _ => rfl
  | id | param0 | param1 | param2 | status | errCode | dstLen | pad | trail | dictInfo | lineInfo | codeInfo
  | irqEn | irqStatus => rfl

@[simp] theorem writeWindow_key (a n : Nat) (v : Word) (s : State) : (writeWindow a n v s).key = s.key := by
  refine whenIdle_key ?_ s
  exact fun _ => rfl

@[simp] theorem writeEffect_key (a n : Nat) (v : Word) (s : State) : (writeEffect a n v s).key = s.key := by
  unfold writeEffect
  split
  · split <;> simp
  all_goals simp

@[simp] theorem hostWrite_key (a : BitVec 20) (n : Nat) (v : Word) (s : State) :
    (hostWrite a n v s).key = s.key := by
  unfold hostWrite
  split
  · exact writeEffect_key a.toNat n v s
  · rfl

@[simp] theorem pollStatus_key (s : State) (rest : List HostOp) : (pollStatus s rest).key = s.key := by
  simp only [pollStatus]
  split <;> simp

@[simp] theorem readResult_key (s : State) (rest : List HostOp) : (readResult s rest).key = s.key := by
  simp [readResult]

@[simp] theorem countInternalStep_key (s : State) : (countInternalStep s).key = s.key := by
  unfold countInternalStep
  split <;> rfl

@[simp] theorem countInternalStep_queue (s : State) : (countInternalStep s).queue = s.queue := by
  unfold countInternalStep
  split <;> rfl

/-- The outside world changes the key tables by a hardware reset only. -/
theorem hostTurn_key (s : State) :
    (hostTurn s).key = if s.queue.head? = some .hardReset then KeyTables.reset else s.key := by
  rcases hostTurn_cases s with ⟨hq, h⟩ | ⟨a, n, q, hq, h⟩ | ⟨a, n, v, q, hq, h⟩ | ⟨q, hq, h⟩ | ⟨q, hq, h⟩ |
    ⟨q, hq, h⟩ <;> simp [h, hq]

/-- A step that completes no command changes the key tables by a hardware reset only. -/
theorem otherStep_key (s : State) :
    (otherStep s).key = if s.queue.head? = some .hardReset then KeyTables.reset else s.key := by
  simp [otherStep, hostTurn_key]

/-! ### Completion steps -/

/-- KEY_STATE and ERR_CODE agree about an install: FAILED with a fatal code, VALID with any other. -/
abbrev InstallReported (t : State) : Prop :=
  t.key.state = if t.errCode ∈ fatalCodes then .failed else .valid

theorem installCommand_key_of_over {s : State} (h : s.cfg.keyMax < s.keyLen.toNat) :
    (installCommand s).key = s.key := by
  rcases installCommand_cases s with ⟨-, hs⟩ | ⟨hle, -⟩
  · simp [hs]
  · omega

theorem installCommand_reported {s : State} (h : s.keyLen.toNat ≤ s.cfg.keyMax) :
    InstallReported (installCommand s) := by
  rcases installCommand_cases s with ⟨hlt, -⟩ | ⟨-, hs⟩
  · omega
  · rcases installKey_outcome s.cfg (keyText s) false s.key with ⟨e, he, herr, hstate⟩ | ⟨c, hc, hok, hstate, -⟩
    · rw [InstallReported, hs, complete_key, complete_errCode, herr, reportedCode, if_pos he, hstate]
    · rw [InstallReported, hs, complete_key, complete_errCode, hok, reportedCode, if_neg hc, hstate]

/-- The key check of a core without a key: a fatal error and FAILED, or VALID with tables a walk never leaves
(45_control.md R185). -/
theorem ensureKey_of_none {s : State} (h : s.key.state = .none) :
    (∃ e ∈ fatalCodes, (ensureKey s).2 = some e ∧ (ensureKey s).1.key.state = .failed) ∨
    ((ensureKey s).2 = none ∧ (ensureKey s).1.key.state = .valid ∧ Walkable (ensureKey s).1.key) := by
  rcases installKey_outcome s.cfg s.cfg.defaultKey true s.key with ⟨e, he, herr, hstate⟩ | ⟨c, -, hok, hstate, hwalk⟩
  · exact .inl ⟨e, he, by simp [ensureKey, h, herr], by simpa [ensureKey, h] using hstate⟩
  · exact .inr ⟨by simp [ensureKey, h, hok], by simpa [ensureKey, h] using hstate, by simpa [ensureKey, h] using hwalk⟩

/-- What PACK and UNPACK share: the length check, the key check, then a part that keeps the key tables and
reports no fatal code over tables a walk never leaves (43_pack.md R140, 44_unpack.md R160). -/
structure KeyedCommand (command payload : State → State) : Prop where
  cases : ∀ s, (s.cfg.srcMax < s.srcLen.toNat ∧ command s = complete .capacityError (noResult s)) ∨
    (s.srcLen.toNat ≤ s.cfg.srcMax ∧
      ((∃ e, (ensureKey s).2 = some e ∧ command s = complete e (noResult (ensureKey s).1)) ∨
       ((ensureKey s).2 = none ∧ command s = payload (ensureKey s).1)))
  keepsKey : ∀ s, (payload s).key = s.key
  notFatal : ∀ s, Walkable s.key → (payload s).errCode ∉ fatalCodes

theorem packCommand_keyed : KeyedCommand packCommand packPayload :=
  ⟨packCommand_cases, packPayload_key, fun s _ => packPayload_not_fatal s⟩

theorem unpackCommand_keyed : KeyedCommand unpackCommand unpackSource :=
  ⟨unpackCommand_cases, unpackSource_key, unpackSource_not_fatal⟩

namespace KeyedCommand

variable {command payload : State → State} {s : State}

theorem key_of_over (hc : KeyedCommand command payload) (h : s.cfg.srcMax < s.srcLen.toNat) :
    (command s).key = s.key := by
  rcases hc.cases s with ⟨-, hs⟩ | ⟨hle, -⟩
  · simp [hs]
  · omega

/-- The key tables after the command are those the key check leaves, unless the length check refuses it. -/
theorem key_of_fits (hc : KeyedCommand command payload) (h : s.srcLen.toNat ≤ s.cfg.srcMax) :
    (command s).key = (ensureKey s).1.key := by
  rcases hc.cases s with ⟨hlt, -⟩ | ⟨-, ⟨e, -, hs⟩ | ⟨-, hs⟩⟩
  · omega
  · simp [hs]
  · rw [hs, hc.keepsKey]

theorem key_of_keyed (hc : KeyedCommand command payload) (h : s.key.state ≠ .none) :
    (command s).key = s.key := by
  rcases Nat.lt_or_ge s.cfg.srcMax s.srcLen.toNat with hlt | hle
  · exact hc.key_of_over hlt
  · rw [hc.key_of_fits hle]
    rcases ensureKey_cases s with ⟨-, he⟩ | ⟨-, he⟩ | ⟨hnone, -⟩
    · rw [he]
    · rw [he]
    · exact absurd hnone h

theorem reported_of_none (hc : KeyedCommand command payload) (h : s.key.state = .none)
    (hle : s.srcLen.toNat ≤ s.cfg.srcMax) : InstallReported (command s) := by
  rw [InstallReported, hc.key_of_fits hle]
  rcases hc.cases s with ⟨hlt, -⟩ | ⟨-, ⟨e, he, hs⟩ | ⟨he, hs⟩⟩
  · omega
  · rcases ensureKey_of_none h with ⟨e', hfatal, he', hstate⟩ | ⟨hok, -, -⟩
    · obtain rfl : e' = e := by simpa [he'] using he
      rw [hs, complete_errCode, if_pos hfatal, hstate]
    · simp [hok] at he
  · rcases ensureKey_of_none h with ⟨e', -, he', -⟩ | ⟨-, hstate, hwalk⟩
    · simp [he'] at he
    · rw [hs, if_neg (hc.notFatal _ hwalk), hstate]

theorem errCode_of_failed (hc : KeyedCommand command payload) (h : s.key.state = .failed)
    (hle : s.srcLen.toNat ≤ s.cfg.srcMax) : (command s).errCode = .notReady := by
  have hcheck : ensureKey s = (s, some .notReady) := by simp [ensureKey, h]
  rcases hc.cases s with ⟨hlt, -⟩ | ⟨-, ⟨e, he, hs⟩ | ⟨he, -⟩⟩
  · omega
  · obtain rfl : ErrCode.notReady = e := by simpa [hcheck] using he
    rw [hs, complete_errCode]
  · simp [hcheck] at he

end KeyedCommand

/-! ### The next state of each instruction -/

section
variable {i : Instr} {s t : State}

theorem exec_install_next (hi : i = .install) (h : exec i s = .next t) : t = installCommand s := by
  subst hi
  exact (Host.Outcome.next.inj h).symm

theorem exec_reset_next (hi : i = .reset) (h : exec i s = .next t) : t = resetCommand s := by
  subst hi
  exact (Host.Outcome.next.inj h).symm

theorem exec_illegal_next {op : BitVec 4} {zero : BitVec 28} (hi : i = .illegal op zero)
    (h : exec i s = .next t) : t = illegalCommand s := by
  subst hi
  exact (Host.Outcome.next.inj h).symm

/-- PACK and UNPACK run as keyed commands. -/
theorem exec_keyed_next (hi : i = .pack ∨ i = .unpack) (h : exec i s = .next t) :
    ∃ command payload, KeyedCommand command payload ∧ t = command s := by
  rcases hi with rfl | rfl
  · exact ⟨_, _, packCommand_keyed, (Host.Outcome.next.inj h).symm⟩
  · exact ⟨_, _, unpackCommand_keyed, (Host.Outcome.next.inj h).symm⟩

end

/-- Settles O56: a due completion by its instruction, any other step by `otherStep_key`. -/
theorem keyStateChangesOnlyAsListed : Obligations.KeyStateChangesOnlyAsListed := by
  intro s
  rcases step_cases s with ⟨w, hw, hq, hstep⟩ | ⟨hother, hstep⟩
  · obtain ⟨t, ht⟩ := exec_next (decodeWord w) s
    refine ⟨t, hstep.trans ht, fun w' hw' _ => ?_, fun hnot => absurd hw (hnot w), fun hr => absurd hr hq⟩
    obtain ⟨rfl, -⟩ : w = w' ∧ _ := Engine.running.inj (hw.symm.trans hw')
    refine ⟨fun hi hover => ?_, fun hi hfits => ?_, fun hi hkey => ?_, fun hi hnone hfits => ?_,
      fun hi hfailed hfits => ?_, fun hi hover => ?_, fun hi => ?_, fun op zero hi => ?_⟩
    · rw [exec_install_next hi ht, installCommand_key_of_over hover]
    · rw [exec_install_next hi ht]
      exact installCommand_reported hfits
    · obtain ⟨command, payload, hc, rfl⟩ := exec_keyed_next hi ht
      exact hc.key_of_keyed hkey
    · obtain ⟨command, payload, hc, rfl⟩ := exec_keyed_next hi ht
      exact hc.reported_of_none hnone hfits
    · obtain ⟨command, payload, hc, rfl⟩ := exec_keyed_next hi ht
      exact hc.errCode_of_failed hfailed hfits
    · obtain ⟨command, payload, hc, rfl⟩ := exec_keyed_next hi ht
      exact hc.key_of_over hover
    · rw [exec_reset_next hi ht, resetCommand_key]
      rfl
    · rw [exec_illegal_next hi ht]
      rfl
  · refine ⟨otherStep s, hstep, fun w hw hq => ?_, fun _ hq => ?_, fun hq => ?_⟩
    · exact absurd hother (by simp [hw, hq])
    · rw [otherStep_key, if_neg hq]
    · rw [otherStep_key, if_pos hq]
      rfl

end Sys2Proof.Machine
end

section
/-! PROOFS. The address map as ranges of addresses, what a window read returns after a write, and that reads have
no side effect: the statements O14, O13 and O15 (20_memory.md R51, R56 to R59). -/

namespace Sys2Proof.Machine

/-! ### The address map as ranges -/

/-- The first address of a region of the map (20_memory.md R51). -/
def regionBase : Region → Nat
  | .regs | .reserved => 0
  | .keyMem => keyBase
  | .srcMem => srcBase
  | .dstMem => dstBase
  | .ctMem => ctBase

/-- The bytes used of a region of the map (20_memory.md R51). -/
def regionSize (p : Params) : Region → Nat
  | .regs => 0x100
  | .keyMem => p.keyMax
  | .srcMem => p.srcMax
  | .dstMem => p.dstMax
  | .ctMem => ctEntryBytes * dictCap p
  | .reserved => 0

/-- With parameters in range the regions are disjoint, so each is exactly its range of addresses. -/
theorem regionAt_eq_iff {p : Params} (hp : paramsInRange p = true) {r : Region} (hr : r ≠ .reserved) (a : Nat) :
    regionAt p a = r ↔ regionBase r ≤ a ∧ a < regionBase r + regionSize p r := by
  simp only [paramsInRange, Bool.and_eq_true, decide_eq_true_eq] at hp
  have hbases : keyBase = 0x01000 ∧ srcBase = 0x02000 ∧ dstBase = 0x04000 ∧ ctBase = 0x08000 :=
    ⟨rfl, rfl, rfl, rfl⟩
  cases r with
  | reserved => exact absurd rfl hr
  | regs | keyMem | srcMem | dstMem | ctMem =>
    rw [regionAt, regionBase, regionSize]
    repeat' split
    all_goals
      simp only [reduceCtorEq, true_iff, false_iff]
      omega

/-- An access that begins and ends in a region lies in the region's range as a whole (log entry 9). -/
theorem access_within_region_iff {p : Params} (hp : paramsInRange p = true) {r : Region} (hr : r ≠ .reserved)
    (a : Nat) {n : Nat} (hn : 0 < n) :
    (regionAt p a = r ∧ regionAt p (a + n - 1) = r) ↔
      regionBase r ≤ a ∧ a + n ≤ regionBase r + regionSize p r := by
  rw [regionAt_eq_iff hp hr, regionAt_eq_iff hp hr]
  omega

/-- The offsets of the 18 registers (10_state.md R23). -/
abbrev registerOffsets : List Nat :=
  [0x000, 0x004, 0x008, 0x00C, 0x010, 0x014, 0x018, 0x020, 0x024, 0x028, 0x02C, 0x030, 0x034, 0x038, 0x03C, 0x040,
    0x044, 0x048]

theorem regAt_isSome_iff (a : Nat) : (regAt a).isSome = true ↔ a ∈ registerOffsets := by
  constructor
  · intro h
    unfold regAt at h
    split at h <;> simp at h ⊢
  · revert a
    decide

/-! ### Legal accesses -/

theorem aligned_iff (a n : Nat) : aligned a n = true ↔ (n = 1 ∨ n = 2 ∨ n = 4) ∧ a % n = 0 := by
  simp [aligned, or_assoc]

/-- An aligned access is legal by the region of its first byte (20_memory.md R51, R56). -/
theorem accessLegal_iff (p : Params) (isWrite : Bool) (a n : Nat) :
    accessLegal p isWrite a n = true ↔ aligned a n = true ∧
      ((regionAt p a = .regs ∧ n = 4 ∧ (regAt a).isSome = true) ∨
        (regionAt p a = .keyMem ∧ regionAt p (a + n - 1) = .keyMem) ∨
        (regionAt p a = .srcMem ∧ regionAt p (a + n - 1) = .srcMem) ∨
        (regionAt p a = .dstMem ∧ regionAt p (a + n - 1) = .dstMem) ∨
        (isWrite = false ∧ regionAt p a = .ctMem ∧ regionAt p (a + n - 1) = .ctMem)) := by
  rw [accessLegal, Bool.and_eq_true]
  cases h : regionAt p a <;> simp

/-- Whatever the host may write it may read. -/
theorem accessLegal_read_of_write {p : Params} {a n : Nat} (h : accessLegal p true a n = true) :
    accessLegal p false a n = true := by
  rw [accessLegal_iff] at h ⊢
  obtain ⟨haligned, hregs | hkey | hsrc | hdst | ⟨hread, -⟩⟩ := h
  · exact ⟨haligned, .inl hregs⟩
  · exact ⟨haligned, .inr (.inl hkey)⟩
  · exact ⟨haligned, .inr (.inr (.inl hsrc))⟩
  · exact ⟨haligned, .inr (.inr (.inr (.inl hdst)))⟩
  · cases hread

theorem hostRead_illegal {s : State} {a : BitVec 20} {n : Nat} (h : accessLegal s.cfg false a.toNat n = false) :
    hostRead a n s = { s with port := .busError } := by
  simp [hostRead, h]

theorem hostWrite_illegal {s : State} {a : BitVec 20} {n : Nat} (v : Word)
    (h : accessLegal s.cfg true a.toNat n = false) : hostWrite a n v s = { s with port := .busError } := by
  simp [hostWrite, h]

/-- Every offset of a register lies in the register block. -/
theorem regionAt_of_mem_registerOffsets (p : Params) {a : Nat} (h : a ∈ registerOffsets) : regionAt p a = .regs := by
  have hbound : ∀ a ∈ registerOffsets, a < 0x100 := by decide
  rw [regionAt, if_pos (hbound a h)]

/-- Settles O14: `accessLegal_iff`, with each region of it read as its range of addresses. -/
theorem legalAccessesAreTheMaps : Obligations.LegalAccessesAreTheMaps := by
  refine ⟨fun p isWrite a n hp => ?_, fun s a n v => ⟨hostRead_illegal, hostWrite_illegal v⟩⟩
  rw [accessLegal_iff, aligned_iff, and_assoc]
  refine and_congr_right fun hsize => and_congr_right fun _ => ?_
  have hn : 0 < n := by omega
  have hregs : (regionAt p a = .regs ∧ n = 4 ∧ (regAt a).isSome = true) ↔ n = 4 ∧ a ∈ registerOffsets := by
    rw [regAt_isSome_iff]
    exact ⟨And.right, fun h => ⟨regionAt_of_mem_registerOffsets p h.2, h⟩⟩
  rw [hregs, access_within_region_iff hp (by decide) a hn, access_within_region_iff hp (by decide) a hn,
    access_within_region_iff hp (by decide) a hn, access_within_region_iff hp (by decide) a hn]
  rfl

/-! ### A read of a window after a write -/

/-- An idle legal read of a data window answers the little-endian word of the window's bytes (20_memory.md R57). -/
theorem hostRead_dataWindow_port {s : State} {a : BitVec 20} {n : Nat} (hidle : s.busy = false)
    (hwindow : inDataWindow s.cfg a.toNat = true) (hlegal : accessLegal s.cfg false a.toNat n = true) :
    (hostRead a n s).port = .readData (wordOf (bytesAt s a.toNat n)) := by
  rw [hostRead_port hlegal]
  cases hregion : regionAt s.cfg a.toNat with
  | keyMem => rw [readValue_of_input_window n (.inl hregion)]
  | srcMem => rw [readValue_of_input_window n (.inr hregion)]
  | dstMem => rw [readValue_dstMem_of_idle n hidle hregion]
  | regs | ctMem | reserved => simp [inDataWindow, hregion] at hwindow

/-- The bytes at an address after bytes have been written there are the bytes written. -/
theorem bytesAt_memWriteBytes (s : State) (r : PortResponse) (a n : Nat) (v : Word) :
    bytesAt { s with mem := memWriteBytes s.mem a (bytesOf n v), port := r } a n = bytesOf n v := by
  unfold bytesAt
  refine List.map_congr_left fun i hi => ?_
  have hlt : i < n := List.mem_range.mp hi
  rw [byteAt_memWriteBytes, length_bytesOf, if_pos ⟨by omega, by omega⟩, Nat.add_sub_cancel_left,
    getElem?_bytesOf v hlt, Option.getD_some]

/-- The word of the `n` lowest bytes of a value is the value below bit `8 * n` (20_memory.md R57). -/
theorem wordOf_bytesOf (n : Nat) (v : Word) : wordOf (bytesOf n v) = BitVec.ofNat 32 (v.toNat % 2 ^ (8 * n)) := by
  refine BitVec.eq_of_getLsbD_eq fun k hk => ?_
  have hk8 : 8 * (k / 8) + k % 8 = k := Nat.div_add_mod k 8
  have hmod : k % 8 < 8 := Nat.mod_lt k (by decide)
  have hbyte := congrArg (·.getLsbD (k % 8))
    (wordOf_map_range_extractLsb' (fun i => v.extractLsb' (8 * i) 8) n (k / 8) (by omega))
  simp only [BitVec.getLsbD_extractLsb', hmod, hk8, decide_true, Bool.true_and] at hbyte
  rw [bytesOf, hbyte, BitVec.getLsbD_ofNat, Nat.testBit_mod_two_pow]
  by_cases hin : k / 8 < n
  · have hlow : k < 8 * n := by omega
    rw [if_pos hin, BitVec.getLsbD_extractLsb', hk8]
    simp [hlow, hk, hmod, BitVec.testBit_toNat]
  · have hhigh : ¬ k < 8 * n := by omega
    simp [hin, hhigh]

/-- Settles O13: the write's bytes are the bytes read, and their word is the value's low bytes. -/
theorem windowReadReturnsTheWrite : Obligations.WindowReadReturnsTheWrite := by
  intro s a n v hidle hwindow hlegal
  rw [hostWrite_window v hidle hwindow hlegal]
  refine (hostRead_dataWindow_port ?_ ?_ ?_).trans ?_
  · exact hidle
  · exact hwindow
  · exact accessLegal_read_of_write hlegal
  · rw [bytesAt_memWriteBytes, wordOf_bytesOf]

/-! ### Reads have no side effect -/

/-- A read changes the response and the count of the draws at most; while idle only the response. -/
theorem hostRead_frame (a : BitVec 20) (n : Nat) (s : State) :
    ∃ r d, hostRead a n s = { s with port := r, draws := d } ∧ (s.busy = false → d = s.draws) := by
  unfold hostRead
  split
  · exact ⟨_, _, rfl, fun hidle => by simp [hidle]⟩
  · exact ⟨_, _, rfl, fun _ => rfl⟩

/-- A read does not depend on the response before it. -/
theorem hostRead_of_port (a : BitVec 20) (n : Nat) (r : PortResponse) (s : State) :
    hostRead a n { s with port := r } = hostRead a n s := by
  unfold hostRead
  split <;> rfl

/-- Settles O15: an idle read changes the response only, which the second read does not depend on. -/
theorem readsHaveNoSideEffect : Obligations.ReadsHaveNoSideEffect := by
  intro s a n
  obtain ⟨r, d, hread, hdraws⟩ := hostRead_frame a n s
  refine ⟨r, d, hread, fun hidle => ⟨hdraws hidle, ?_⟩⟩
  calc hostRead a n (hostRead a n s)
      = hostRead a n { s with port := r } := by rw [hread, hdraws hidle]
    _ = hostRead a n s := hostRead_of_port a n r s

end Sys2Proof.Machine
end

section
/-! PROOFS. The decoder and the encoder of command words (30_encoding.md R80 to R82): they undo each other, on words
and on bytes, and running an illegal word is its completion alone. -/

namespace Sys2Proof

/-! ### Words -/

/-- ZERO and OP make up the word (30_encoding.md R80). -/
theorem zeroField_append_opField (w : Word) : (zeroField w ++ opField w : Word) = w :=
  (BitVec.extractLsb'_append_extractLsb'_eq_extractLsb' rfl).trans BitVec.extractLsb'_eq_self

/-- What the decoder can answer (30_encoding.md R81, R82). -/
theorem decodeWord_cases (w : Word) :
    (zeroField w = 0#28 ∧
      (opField w = 0x1#4 ∧ decodeWord w = .install ∨ opField w = 0x2#4 ∧ decodeWord w = .pack ∨
        opField w = 0x3#4 ∧ decodeWord w = .unpack ∨ opField w = 0xF#4 ∧ decodeWord w = .reset)) ∨
    ((zeroField w = 0#28 → opField w ∉ legalOps) ∧ decodeWord w = .illegal (opField w) (zeroField w)) := by
  by_cases hzero : zeroField w = 0#28
  · rw [decodeWord, if_pos hzero]
    by_cases h1 : opField w = 0x1#4
    · exact .inl ⟨hzero, .inl ⟨h1, if_pos h1⟩⟩
    rw [if_neg h1]
    by_cases h2 : opField w = 0x2#4
    · exact .inl ⟨hzero, .inr (.inl ⟨h2, if_pos h2⟩)⟩
    rw [if_neg h2]
    by_cases h3 : opField w = 0x3#4
    · exact .inl ⟨hzero, .inr (.inr (.inl ⟨h3, if_pos h3⟩))⟩
    rw [if_neg h3]
    by_cases h15 : opField w = 0xF#4
    · exact .inl ⟨hzero, .inr (.inr (.inr ⟨h15, if_pos h15⟩))⟩
    rw [if_neg h15]
    exact .inr ⟨fun _ => by simp only [legalOps, List.mem_cons, List.not_mem_nil, h1, h2, h3, h15, or_self,
      not_false_eq_true], rfl⟩
  · exact .inr ⟨fun h => absurd h hzero, if_neg hzero⟩

/-- The decoder gives a well-formed instruction. -/
theorem wellFormed_decodeWord (w : Word) : (decodeWord w).wellFormed = true := by
  rcases decodeWord_cases w with ⟨-, hmap⟩ | ⟨hop, h⟩
  · rcases hmap with ⟨-, h⟩ | ⟨-, h⟩ | ⟨-, h⟩ | ⟨-, h⟩ <;> rw [h] <;> rfl
  · rw [h, Instr.wellFormed]
    by_cases hzero : zeroField w = 0#28
    · simp [hzero, hop hzero]
    · simp [hzero]

/-- Encoding gives back the word an instruction was decoded from. -/
theorem encode_decodeWord (w : Word) : encode (decodeWord w) = w := by
  have hw := zeroField_append_opField w
  rcases decodeWord_cases w with ⟨hzero, hmap⟩ | ⟨-, h⟩
  · rcases hmap with ⟨hop, h⟩ | ⟨hop, h⟩ | ⟨hop, h⟩ | ⟨hop, h⟩ <;> rw [h, ← hw, hzero, hop] <;> rfl
  · rw [h]; exact hw

/-- Decoding gives back a well-formed instruction from its word. -/
theorem decodeWord_encode {i : Instr} (h : i.wellFormed = true) : decodeWord (encode i) = i := by
  cases i with
  | install => rfl
  | pack => rfl
  | unpack => rfl
  | reset => rfl
  | illegal op zero =>
    have hop : opField (encode (.illegal op zero)) = op := Laws.TableRow.opField_append zero op
    have hzero : zeroField (encode (.illegal op zero)) = zero := Laws.TableRow.zeroField_append zero op
    have hmap : zero = 0#28 → op ∉ legalOps := by simpa [Instr.wellFormed, Decidable.imp_iff_not_or] using h
    rcases decodeWord_cases (encode (.illegal op zero)) with ⟨h0, hlegal⟩ | ⟨-, hdec⟩
    · rw [hzero] at h0
      rw [hop] at hlegal
      refine absurd ?_ (hmap h0)
      rcases hlegal with ⟨rfl, -⟩ | ⟨rfl, -⟩ | ⟨rfl, -⟩ | ⟨rfl, -⟩ <;> decide
    · rw [hdec, hop, hzero]

/-- A word decodes to a well-formed instruction exactly when it is that instruction's word. -/
theorem decodeWord_eq_iff {i : Instr} (h : i.wellFormed = true) (w : Word) : decodeWord w = i ↔ w = encode i :=
  ⟨fun hw => by rw [← hw, encode_decodeWord], fun hw => by rw [hw, decodeWord_encode h]⟩

/-! ### Bytes -/

/-- The bytes of a word, lowest first, make up the word (20_memory.md R57). -/
theorem wordOfBytes_bytesOfWord (w : Word) :
    wordOfBytes (w.extractLsb' 0 8) (w.extractLsb' 8 8) (w.extractLsb' 16 8) (w.extractLsb' 24 8) = w := by
  have h2 : w.extractLsb' 8 8 ++ w.extractLsb' 0 8 = w.extractLsb' 0 16 :=
    BitVec.extractLsb'_append_extractLsb'_eq_extractLsb' rfl
  have h3 : w.extractLsb' 16 8 ++ w.extractLsb' 0 16 = w.extractLsb' 0 24 :=
    BitVec.extractLsb'_append_extractLsb'_eq_extractLsb' rfl
  have h4 : w.extractLsb' 24 8 ++ w.extractLsb' 0 24 = w.extractLsb' 0 32 :=
    BitVec.extractLsb'_append_extractLsb'_eq_extractLsb' rfl
  rw [wordOfBytes, h2, h3, h4, BitVec.extractLsb'_eq_self]

/-- The decoder reads one word from bytes and leaves those behind it. -/
theorem decodeBytes_bytesOfWord (w : Word) (rest : List Byte) :
    decodeBytes (bytesOfWord w ++ rest) = .ok (decodeWord w, rest) :=
  congrArg (fun v => Except.ok (decodeWord v, rest)) (wordOfBytes_bytesOfWord w)

end Sys2Proof

namespace Sys2Proof.Machine

/-- Settles O4: `decodeWord_encode` behind the bytes of the word, and `encode_decodeWord`. -/
theorem decodeAndEncodeAgree : Obligations.DecodeAndEncodeAgree := by
  refine ⟨fun i rest h => ?_, fun w => ⟨wellFormed_decodeWord w, encode_decodeWord w⟩⟩
  rw [encodeBytes, decodeBytes_bytesOfWord, decodeWord_encode h]

/-- Settles O2: each command is decoded from its own word alone. -/
theorem opcodeMapIsExact : Obligations.OpcodeMapIsExact := fun w =>
  ⟨decodeWord_eq_iff (i := .install) rfl w, decodeWord_eq_iff (i := .pack) rfl w,
    decodeWord_eq_iff (i := .unpack) rfl w, decodeWord_eq_iff (i := .reset) rfl w⟩

/-- The meaning of the illegal command is the completion with IllegalCommand (45_control.md R187). -/
theorem exec_illegal_eq (op : BitVec 4) (zero : BitVec 28) (s : State) :
    exec (.illegal op zero) s = .next (complete .illegalCommand s) := rfl

/-- Settles O3: such a word decodes to none of the four commands (O2), so it is illegal. -/
theorem otherWordsCompleteWithIllegalCommand : Obligations.OtherWordsCompleteWithIllegalCommand := by
  intro w s hinstall hpack hunpack hreset
  obtain ⟨h1, h2, h3, h15⟩ := opcodeMapIsExact w
  have hdec : decodeWord w = .illegal (w.extractLsb' 0 4) (w.extractLsb' 4 28) := by
    rcases decodeWord_cases w with ⟨-, ⟨-, h⟩ | ⟨-, h⟩ | ⟨-, h⟩ | ⟨-, h⟩⟩ | ⟨-, h⟩
    · exact absurd (h1.mp h) hinstall
    · exact absurd (h2.mp h) hpack
    · exact absurd (h3.mp h) hunpack
    · exact absurd (h15.mp h) hreset
    · exact h
  refine ⟨hdec, ?_⟩
  rw [hdec, exec_illegal_eq]
  rfl

/-- Settles O1: closed words, evaluated. -/
theorem commandWordsDecodeToTheirCommands : Obligations.CommandWordsDecodeToTheirCommands :=
  ⟨rfl, rfl, rfl, rfl, rfl, rfl, rfl, rfl, rfl, rfl⟩

end Sys2Proof.Machine
end

section
/-! PROOFS. The lines of a key text (30_encoding.md R84): the runs are the library's split at the newline byte. -/

namespace Sys2Proof.Machine

theorem runsOf_ne_nil (t : List Byte) : runsOf t ≠ [] := by
  cases t with
  | nil => simp [runsOf]
  | cons b bs =>
    rw [runsOf]
    split
    · simp
    · split <;> simp

/-- A byte in front of a text: a newline puts an empty run in front, any other byte is in the first run. -/
theorem runsOf_cons (b : Byte) (bs : List Byte) :
    runsOf (b :: bs) = if b = newline then [] :: runsOf bs else (runsOf bs).modifyHead (b :: ·) := by
  obtain ⟨r, rs, h⟩ := List.exists_cons_of_ne_nil (runsOf_ne_nil bs)
  simp [runsOf, h]

/-- The runs are the library's split of the text at newlines. -/
theorem runsOf_eq_splitOn (t : List Byte) : runsOf t = t.splitOn newline := by
  induction t with
  | nil => rfl
  | cons b bs ih => simp [runsOf_cons, List.splitOn_cons_eq_if_modifyHead, ih]

/-- No run holds a newline. -/
theorem newline_notMem_of_mem_runsOf {t r : List Byte} (h : r ∈ runsOf t) : newline ∉ r := by
  induction t generalizing r with
  | nil => simp_all [runsOf]
  | cons b bs ih =>
    obtain ⟨r', rs, hruns⟩ := List.exists_cons_of_ne_nil (runsOf_ne_nil bs)
    rw [runsOf_cons] at h
    by_cases hb : b = newline
    · rw [if_pos hb] at h
      rcases List.mem_cons.mp h with rfl | hr
      · exact List.not_mem_nil
      · exact ih hr
    · rw [if_neg hb, hruns] at h
      rcases List.mem_cons.mp h with rfl | hr
      · have hfirst : newline ∉ r' := ih (by simp [hruns])
        simp [hfirst, Ne.symm hb]
      · exact ih (by simp [hruns, hr])

/-- A newline behind a text puts an empty run behind its runs. -/
theorem runsOf_append_newline (t : List Byte) : runsOf (t ++ [newline]) = runsOf t ++ [[]] := by
  rw [runsOf_eq_splitOn, List.splitOn_append_cons_self, runsOf_eq_splitOn]
  rfl

/-- The last run of a text that does not end in a newline is not empty. -/
theorem getLast?_runsOf_append {b : Byte} (hb : b ≠ newline) (t : List Byte) :
    (runsOf (t ++ [b])).getLast? ≠ some [] := by
  induction t with
  | nil => simp [runsOf, hb]
  | cons c cs ih =>
    obtain ⟨r, rs, hruns⟩ := List.exists_cons_of_ne_nil (runsOf_ne_nil (cs ++ [b]))
    rw [hruns] at ih
    rw [List.cons_append, runsOf_cons, hruns]
    by_cases hc : c = newline
    · simpa [hc] using ih
    · cases rs with
      | nil => simp [hc]
      | cons r2 rs => simpa [hc] using ih

theorem dropEmptyLast_append_empty (rs : List (List Byte)) : dropEmptyLast (rs ++ [[]]) = rs := by
  simp [dropEmptyLast]

theorem dropEmptyLast_of_getLast? {rs : List (List Byte)} (h : rs.getLast? ≠ some []) :
    dropEmptyLast rs = rs := if_neg h

theorem stripCr_append_carriageReturn (r : List Byte) : stripCr (r ++ [carriageReturn]) = r := by
  simp [stripCr]

theorem stripCr_of_getLast? {r : List Byte} (h : r.getLast? ≠ some carriageReturn) : stripCr r = r := if_neg h

/-- Settles O29: the runs by the library's split, the lines by the text's last byte. -/
theorem splitLinesCutsAtNewlines : Obligations.SplitLinesCutsAtNewlines := by
  refine ⟨rfl, rfl, fun t => ⟨?_, fun r => newline_notMem_of_mem_runsOf⟩, rfl, fun t => ?_, fun t b hb => ?_,
    stripCr_append_carriageReturn, fun r => stripCr_of_getLast?⟩
  · rw [runsOf_eq_splitOn, List.intercalate_splitOn]
  · rw [splitLines, runsOf_append_newline, dropEmptyLast_append_empty]
  · rw [splitLines, dropEmptyLast_of_getLast? (getLast?_runsOf_append hb t)]

end Sys2Proof.Machine
end

section
/-! PROOFS. Hex digits, the digits of a byte string, and the fields of a key line (00_scope.md R15, 30_encoding.md
R85). -/

namespace Sys2Proof.Machine

/-! ### Digits -/

/-- HexVal by the three ranges of the byte's number. -/
theorem hexVal_eq (c : Byte) :
    hexVal c =
      if 0x30 ≤ c.toNat ∧ c.toNat ≤ 0x39 then some (BitVec.ofNat 4 (c.toNat - 0x30))
      else if 0x61 ≤ c.toNat ∧ c.toNat ≤ 0x66 then some (BitVec.ofNat 4 (c.toNat - 0x61 + 10))
      else if 0x41 ≤ c.toNat ∧ c.toNat ≤ 0x46 then some (BitVec.ofNat 4 (c.toNat - 0x41 + 10))
      else none := by
  simp only [hexVal, BitVec.le_def, BitVec.reduceToNat]
  by_cases hdigit : 0x30 ≤ c.toNat ∧ c.toNat ≤ 0x39
  · rw [if_pos hdigit, if_pos hdigit]
    exact congrArg some (by bv_omega)
  rw [if_neg hdigit, if_neg hdigit]
  by_cases hlower : 0x61 ≤ c.toNat ∧ c.toNat ≤ 0x66
  · rw [if_pos hlower, if_pos hlower]
    exact congrArg some (by bv_omega)
  rw [if_neg hlower, if_neg hlower]
  by_cases hupper : 0x41 ≤ c.toNat ∧ c.toNat ≤ 0x46
  · rw [if_pos hupper, if_pos hupper]
    exact congrArg some (by bv_omega)
  rw [if_neg hupper, if_neg hupper]

theorem toNat_hexChar (v : Nibble) :
    (hexChar v).toNat = if v.toNat < 10 then 0x30 + v.toNat else 0x61 + v.toNat - 10 := by
  have hv : v.toNat < 16 := v.isLt
  simp only [hexChar, BitVec.lt_def, BitVec.reduceToNat]
  by_cases hdigit : v.toNat < 10
  · rw [if_pos hdigit, if_pos hdigit]
    bv_omega
  · rw [if_neg hdigit, if_neg hdigit]
    bv_omega

/-- Two digits make a byte, first digit high. -/
theorem toNat_append_nibbles (hi lo : Nibble) : (hi ++ lo : Byte).toNat = 16 * hi.toNat + lo.toNat := by
  rw [BitVec.toNat_append, ← Nat.shiftLeft_add_eq_or_of_lt lo.isLt, Nat.shiftLeft_eq]
  omega

/-! ### The digits of a byte string -/

/-- The digits of a byte string are the digits of its bytes. -/
theorem hexVals_eq_some_iff (cs : List Byte) (vs : List Nibble) :
    hexVals cs = some vs ↔ cs.map hexVal = vs.map some := by
  induction cs generalizing vs with
  | nil => cases vs <;> simp [hexVals]
  | cons c cs ih =>
    cases vs with
    | nil =>
      rw [hexVals]
      split <;> simp
    | cons v vs =>
      rw [List.map_cons, List.map_cons, List.cons.injEq, ← ih, hexVals]
      split <;> simp_all

theorem length_of_hexVals {cs : List Byte} {vs : List Nibble} (h : hexVals cs = some vs) :
    vs.length = cs.length := by
  simpa using (congrArg List.length ((hexVals_eq_some_iff cs vs).mp h)).symm

/-- Digit `i` of a byte string is the digit of byte `i`. -/
theorem getElem?_of_hexVals {cs : List Byte} {vs : List Nibble} (h : hexVals cs = some vs) (i : Nat) :
    cs[i]?.bind hexVal = vs[i]? := by
  have hi := congrArg (·[i]?) ((hexVals_eq_some_iff cs vs).mp h)
  simp only [List.getElem?_map] at hi
  cases hc : cs[i]? <;> cases hv : vs[i]? <;> simp_all

/-- A byte string has digits exactly when each byte has one. -/
theorem hexVals_isSome_iff (cs : List Byte) :
    (hexVals cs).isSome = true ↔ ∀ c ∈ cs, (hexVal c).isSome = true := by
  induction cs with
  | nil => simp [hexVals]
  | cons c cs ih =>
    rw [List.forall_mem_cons, ← ih]
    cases hc : hexVal c <;> cases hcs : hexVals cs <;> simp [hexVals, hc, hcs]

/-! ### Whole pairs of digits -/

theorem length_hexPairs (vs : List Nibble) : (hexPairs vs).length = vs.length / 2 := by
  induction vs using hexPairs.induct with
  | case1 hi lo vs ih =>
    simp only [hexPairs, List.length_cons, ih]
    omega
  | case2 vs h =>
    rcases vs with _ | ⟨v, _ | ⟨w, vs⟩⟩
    · rfl
    · simp [hexPairs]
    · exact absurd rfl (h v w vs)

/-- Byte `k` is made of the digits `2k` and `2k + 1`. -/
theorem toNat_getElem?_hexPairs (vs : List Nibble) (k : Nat) (h : k < (hexPairs vs).length) :
    ((hexPairs vs)[k]?.getD 0#8).toNat = 16 * (vs[2 * k]?.getD 0#4).toNat + (vs[2 * k + 1]?.getD 0#4).toNat := by
  induction vs using hexPairs.induct generalizing k with
  | case1 hi lo vs ih =>
    cases k with
    | zero => simp [hexPairs, toNat_append_nibbles]
    | succ k =>
      have hk : k < (hexPairs vs).length := by simpa [hexPairs] using h
      simpa [hexPairs, Nat.mul_add] using ih k hk
  | case2 vs hshort =>
    rw [hexPairs] at h
    · simp at h
    · exact hshort

/-! ### Key lines -/

/-- Valid(L) and Fields(L) by the digits of the line (30_encoding.md R85). -/
theorem keyLine_eq_some_iff (text : List Byte) (l : KeyLine) :
    keyLine text = some l ↔
      ∃ w1 w0 vs, hexVals text = some (w1 :: w0 :: vs) ∧ 2 ≤ vs.length ∧
        l = ⟨w1 ++ w0, (hexPairs vs).take maxExprLen⟩ := by
  unfold keyLine
  split
  · next w1 w0 e1 e0 vs h =>
    simp only [h, Option.some.injEq, List.cons.injEq]
    constructor
    · rintro rfl
      exact ⟨w1, w0, e1 :: e0 :: vs, ⟨rfl, rfl, rfl⟩, by simp, rfl⟩
    · rintro ⟨_, _, _, ⟨rfl, rfl, rfl⟩, -, rfl⟩
      rfl
  · next hshort =>
    refine ⟨nofun, ?_⟩
    rintro ⟨w1, w0, _ | ⟨e1, _ | ⟨e0, vs⟩⟩, h, hlen, -⟩
    · simp at hlen
    · simp at hlen
    · exact absurd h (hshort w1 w0 e1 e0 vs)

/-- A line is valid exactly when it has at least four bytes, all hex digits (30_encoding.md R85). -/
theorem keyLine_isSome_iff (text : List Byte) :
    (keyLine text).isSome = true ↔ 4 ≤ text.length ∧ ∀ c ∈ text, (hexVal c).isSome = true := by
  rw [← hexVals_isSome_iff, Option.isSome_iff_exists, Option.isSome_iff_exists]
  constructor
  · rintro ⟨l, hl⟩
    obtain ⟨w1, w0, vs, hvs, hlen, -⟩ := (keyLine_eq_some_iff text l).mp hl
    have := length_of_hexVals hvs
    simp only [List.length_cons] at this
    exact ⟨by omega, _, hvs⟩
  · rintro ⟨hlen, vs, hvs⟩
    rw [← length_of_hexVals hvs] at hlen
    match vs, hlen with
    | w1 :: w0 :: vs, hlen =>
      exact ⟨_, (keyLine_eq_some_iff text _).mpr ⟨w1, w0, vs, hvs, by simpa using hlen, rfl⟩⟩

/-- The number a line's digit `i` stands for, 0 where there is none. -/
def lineDigit (text : List Byte) (i : Nat) : Nat := ((text[i]?.bind hexVal).getD 0#4).toNat

/-- The fields of a valid line, by its digits (30_encoding.md R85). -/
theorem keyLine_fields {text : List Byte} {l : KeyLine} (h : keyLine text = some l) :
    l.weight.toNat = 16 * lineDigit text 0 + lineDigit text 1 ∧
      l.expr.length = min ((text.length - 2) / 2) 15 ∧ 1 ≤ l.expr.length ∧
      ∀ k, k < l.expr.length →
        (l.expr[k]?.getD 0#8).toNat = 16 * lineDigit text (2 + 2 * k) + lineDigit text (3 + 2 * k) := by
  obtain ⟨w1, w0, vs, hvs, hlen, rfl⟩ := (keyLine_eq_some_iff text l).mp h
  have htext : text.length = vs.length + 2 := (length_of_hexVals hvs).symm
  have hexpr : ((hexPairs vs).take maxExprLen).length = min ((text.length - 2) / 2) 15 := by
    rw [List.length_take, length_hexPairs, maxExprLen, htext, Nat.add_sub_cancel, Nat.min_comm]
  have hdigit (i : Nat) : lineDigit text i = ((w1 :: w0 :: vs)[i]?.getD 0#4).toNat := by
    rw [lineDigit, getElem?_of_hexVals hvs]
  refine ⟨by simp [hdigit, toNat_append_nibbles], hexpr, by dsimp only; omega, fun k hk => ?_⟩
  rw [List.length_take] at hk
  rw [List.getElem?_take_of_lt (by omega), toNat_getElem?_hexPairs vs k (by omega), hdigit, hdigit,
    Nat.add_comm 2, Nat.add_comm 3]
  rfl

/-- A valid line with room for it is stored as the next custom entry (40_install.md R103, R105). -/
theorem addLine_dict_of_some {p : Params} {b : DictBuild} {text : List Byte} {l : KeyLine}
    (h : keyLine text = some l) (hroom : b.dict.length ≠ p.customMax) :
    (addLine p b text).dict =
      b.dict ++ [⟨l.weight.setWidth 32, l.expr, true, !isDuplicate b.dict l.expr⟩] := by
  simp [addLine, h, hroom]

/-- Settles O30: the digit ranges, then the line by its digits. -/
theorem keyLineFieldsAreTheHexPairs : Obligations.KeyLineFieldsAreTheHexPairs := by
  refine ⟨fun c => ?_, toNat_hexChar, fun text => ⟨keyLine_isSome_iff text, fun l hl => ?_⟩⟩
  · rw [hexVal_eq]
    refine ⟨fun hlo hhi => if_pos ⟨hlo, hhi⟩, fun hlo hhi => ?_, fun hlo hhi => ?_,
      fun hdigit hupper hlower => ?_⟩
    · rw [if_neg (by omega), if_neg (by omega), if_pos ⟨hlo, hhi⟩]
    · rw [if_neg (by omega), if_pos ⟨hlo, hhi⟩]
    · rw [if_neg hdigit, if_neg hlower, if_neg hupper]
  · obtain ⟨hweight, hlen, hpos, hexpr⟩ := keyLine_fields hl
    refine ⟨hweight, hlen, hpos, hexpr, fun p b hroom => ⟨_, addLine_dict_of_some hl hroom, ?_, rfl⟩⟩
    rw [BitVec.toNat_setWidth]
    omega

end Sys2Proof.Machine
end

section
/-! PROOFS. The 64 bytes CTMEM shows for each code-table entry (30_encoding.md R89). -/

namespace Sys2Proof.Machine

/-! ### The byte of a window address -/

/-- Byte `off` of entry `j` in CTMEM is that entry's byte, or 0 where there is no entry. -/
theorem ctByte_of_entry (s : State) (j : Nat) {off : Nat} (h : off < 64) :
    ctByte s (0x08000 + 64 * j + off) = (s.key.ct[j]?.map (entryByte · off)).getD 0#8 := by
  have hdiv : (0x08000 + 64 * j + off - ctBase) / ctEntryBytes = j := by
    rw [ctBase, ctEntryBytes]; omega
  have hmod : (0x08000 + 64 * j + off - ctBase) % ctEntryBytes = off := by
    rw [ctBase, ctEntryBytes]; omega
  rw [ctByte, hdiv, hmod]
  cases s.key.ct[j]? <;> rfl

/-! ### The bytes of a valid entry -/

theorem entryByte_exprLength {e : CodeEntry} (h : e.expr.length ≤ 15) :
    entryByte e 0x00 = BitVec.ofNat 8 e.expr.length := by
  rw [entryByte, if_pos rfl, Nat.mod_eq_of_lt (by omega)]

theorem entryByte_expr (e : CodeEntry) {k : Nat} (h : k < 15) :
    entryByte e (0x10 + k) = e.expr[k]?.getD 0#8 := by
  rw [entryByte, if_neg (by omega), if_neg (by omega), if_neg (by omega), if_pos (by omega), Nat.add_sub_cancel_left]

theorem entryByte_code (e : CodeEntry) {i : Nat} (h : i < 16) :
    entryByte e (0x20 + i) = codeByte e.code i := by
  rw [entryByte, if_neg (by omega), if_neg (by omega), if_neg (by omega), if_neg (by omega), if_pos (by omega),
    Nat.add_sub_cancel_left]

/-- Every byte beside the fields is 0. -/
theorem entryByte_reserved (e : CodeEntry) {off : Nat}
    (h : off = 0x02 ∨ (0x04 ≤ off ∧ off < 0x10) ∨ off = 0x1F ∨ 0x30 ≤ off) :
    entryByte e off = 0#8 := by
  rw [entryByte, if_neg (by omega), if_neg (by omega), if_neg (by omega), if_neg (by omega), if_neg (by omega)]

/-- The bits of a nibble, by the bits it is made of, first bit most significant (00_scope.md R11). -/
theorem nibbleOf_getLsbD (b3 b2 b1 b0 : Bool) :
    (nibbleOf b3 b2 b1 b0).getLsbD 3 = b3 ∧ (nibbleOf b3 b2 b1 b0).getLsbD 2 = b2 ∧
      (nibbleOf b3 b2 b1 b0).getLsbD 1 = b1 ∧ (nibbleOf b3 b2 b1 b0).getLsbD 0 = b0 := by
  revert b3 b2 b1 b0
  decide

theorem getLsbD_append_nibbles (hi lo : Nibble) (k : Nat) :
    (hi ++ lo : Byte).getLsbD k = if k < 4 then lo.getLsbD k else hi.getLsbD (k - 4) :=
  BitVec.getLsbD_append

/-- Bit `7 - b` of code byte `i` is code bit `8i + b`. -/
theorem getLsbD_codeByte (code : Bits) (i : Nat) {b : Nat} (h : b < 8) :
    (codeByte code i).getLsbD (7 - b) = code[8 * i + b]?.getD false := by
  have hbit : (codeByte code i).getLsbD (7 - b) = codeBit code (8 * i + b) := by
    match b, h with
    | 0, _ | 1, _ | 2, _ | 3, _ | 4, _ | 5, _ | 6, _ | 7, _ =>
      rw [codeByte, getLsbD_append_nibbles]
      simp only [Nat.reduceSub, Nat.reduceLT, reduceIte, nibbleOf_getLsbD, Nat.add_zero]
  rw [hbit, codeBit]

/-- Settles O39: the byte of each offset, field by field. -/
theorem codeTableWindowLayout : Obligations.CodeTableWindowLayout := by
  intro s j
  refine ⟨fun hj off hoff => ?_, fun e he hexpr _ => ?_⟩
  · rw [ctByte_of_entry s j hoff, List.getElem?_eq_none hj]
    rfl
  · have hbyte {off : Nat} (hoff : off < 64) : ctByte s (0x08000 + 64 * j + off) = entryByte e off := by
      rw [ctByte_of_entry s j hoff, he]
      rfl
    refine ⟨?_, hbyte (by omega), ?_, hbyte (by omega), fun k hlo hhi => ?_, fun k hk => ?_, ?_,
      fun i b hi hb => ?_, fun k hlo hhi => ?_⟩
    · exact (hbyte (by omega)).trans (entryByte_exprLength hexpr)
    · exact (hbyte (by omega)).trans (entryByte_reserved e (by omega))
    · exact (hbyte (by omega)).trans (entryByte_reserved e (by omega))
    · exact (hbyte (by omega)).trans (entryByte_expr e hk)
    · exact (hbyte (by omega)).trans (entryByte_reserved e (by omega))
    · exact (congrArg (·.getLsbD (7 - b)) ((hbyte (by omega)).trans (entryByte_code e hi))).trans
        (getLsbD_codeByte e.code i hb)
    · exact (hbyte (by omega)).trans (entryByte_reserved e (by omega))

end Sys2Proof.Machine
end

section
/-! PROOFS. The expansions of host-script statements (30_encoding.md R91, R92), and the step of an idle core that takes
WAIT or READDST. -/

namespace Sys2Proof.Machine

/-! ### The byte writes of LOADSRC and LOADKEY -/

theorem length_writeByteOps (base : Nat) (t : List Byte) : (writeByteOps base t).length = t.length := by
  induction t generalizing base with
  | nil => rfl
  | cons b bs ih => simp [writeByteOps, ih]

theorem getElem?_writeByteOps {t : List Byte} {i : Nat} {b : Byte} (base : Nat) (h : t[i]? = some b) :
    (writeByteOps base t)[i]? = some (.write (BitVec.ofNat 20 (base + i)) 1 (b.setWidth 32)) := by
  induction t generalizing base i with
  | nil => simp at h
  | cons c cs ih =>
    cases i with
    | zero => simp_all [writeByteOps]
    | succ i =>
      rw [writeByteOps, List.getElem?_cons_succ, ih (base + 1) (by simpa using h), Nat.add_assoc, Nat.add_comm 1 i]

/-- An operation behind the byte writes leaves them in their places. -/
theorem getElem?_writeByteOps_append {t : List Byte} {i : Nat} {b : Byte} (base : Nat) (ops : List HostOp)
    (h : t[i]? = some b) :
    (writeByteOps base t ++ ops)[i]? = some (.write (BitVec.ofNat 20 (base + i)) 1 (b.setWidth 32)) := by
  obtain ⟨hi, -⟩ := List.getElem?_eq_some_iff.mp h
  rw [List.getElem?_append_left (by rwa [length_writeByteOps]), getElem?_writeByteOps base h]

/-! ### The host's turn of an idle core -/

/-- A step of an idle core is the outside world's turn (45_control.md R180, 60_exceptions.md R219). -/
theorem step_of_idle {s : State} (h : s.busy = false) : step s = .next (hostTurn s) := by
  have hidle : s.engine = .idle := by
    cases he : s.engine with
    | idle => rfl
    | running w n => simp [State.busy, he] at h
  simp [step, dueCommand, otherStep, countInternalStep, hidle]

/-- A word read of a register while idle changes the response alone, which is the register's value. -/
theorem hostRead_register_of_idle {s : State} (r : Reg) (h : s.busy = false) :
    hostRead (regOffset r) 4 s = { s with port := .readData (regValue s r) } := by
  have hport := hostRead_register_port s r
  obtain ⟨p, d, hread, hdraws⟩ := hostRead_frame (regOffset r) 4 s
  rw [hread, readReg_of_idle r h] at hport
  rw [hread, hdraws h, show p = _ from hport]

/-- WAIT of an idle core reads BUSY as 0 and ends. -/
theorem pollStatus_of_idle {s : State} (q : List HostOp) (h : s.busy = false) :
    pollStatus s q = { s with port := .readData (regValue s .status), queue := q } := by
  have hbusy : (regValue s .status).getLsbD 0 = false := (statusWord_flags s).1.trans h
  simp only [pollStatus, hostRead_register_of_idle .status h, portData, hbusy]
  rfl

/-- READDST of an idle core reads DST_LEN and leaves that many byte reads. -/
theorem readResult_of_idle {s : State} (q : List HostOp) (h : s.busy = false) :
    readResult s q =
      { s with port := .readData (s.out.dstLen.setWidth 32), queue := dstReads s.out.dstLen.toNat ++ q } := by
  have hvalue : regValue s .dstLen = s.out.dstLen.setWidth 32 := by simp [regValue, fieldAt]
  have hlen : (s.out.dstLen.setWidth 32).toNat = s.out.dstLen.toNat := by
    rw [BitVec.toNat_setWidth]; omega
  simp only [readResult, hostRead_register_of_idle .dstLen h, portData, hvalue, hlen]

/-- Settles O60: the single accesses by the definition of `expand`, the byte writes by their index, and the two
queue operations by the turn of an idle core. -/
theorem pseudoStatementsExpand : Obligations.PseudoStatementsExpand := by
  refine ⟨fun _ _ => rfl, fun _ => rfl, fun _ _ => rfl, fun _ => rfl, fun _ => rfl, rfl, rfl, rfl, rfl, rfl, rfl,
    fun t => ?_, fun t => ?_, fun t => ?_, fun t i b hb => ?_, fun t => ?_, fun s q hidle hq => ?_,
    fun s q hidle hq => ?_⟩
  · simp [expand]
  · simp [expand]
  · simp [expand]
  · exact ⟨getElem?_writeByteOps_append srcBase _ hb, getElem?_writeByteOps_append keyBase _ hb⟩
  · simp [expand, loadSrcOps, loadKeyOps, length_writeByteOps, writeRegOp, regOffset]
  · rw [step_of_idle hidle, hostTurn, hq]
    exact congrArg _ (pollStatus_of_idle q hidle)
  · rw [step_of_idle hidle, hostTurn, hq]
    exact congrArg _ (readResult_of_idle q hidle)

end Sys2Proof.Machine
end

section
/-! PROOFS. The dictionary builder: which lines of the key text become custom entries, which entries are active, and
the byte entries behind the custom ones (40_install.md R102 to R108). -/

namespace Sys2Proof.Machine

/-! ### Entries whose expression no earlier entry has -/

/-- An entry is active exactly when no earlier entry has its expression (40_install.md R104). -/
def FirstActive (d : List DictEntry) : Prop :=
  ∀ (j : Nat) (e : DictEntry), d[j]? = some e →
    (e.active = true ↔ ∀ (i : Nat) (f : DictEntry), i < j → d[i]? = some f → f.expr ≠ e.expr)

theorem firstActive_nil : FirstActive [] := by simp [FirstActive]

/-- One more entry behind the others. -/
theorem FirstActive.append {d : List DictEntry} {e : DictEntry} (h : FirstActive d)
    (he : e.active = true ↔ ∀ f ∈ d, f.expr ≠ e.expr) : FirstActive (d ++ [e]) := by
  intro j e' hj
  obtain ⟨hlt, -⟩ := List.getElem?_eq_some_iff.mp hj
  rw [List.length_append, List.length_singleton] at hlt
  have hbefore (i : Nat) (hi : i < j) : (d ++ [e])[i]? = d[i]? := List.getElem?_append_left (by omega)
  have hall (e'' : DictEntry) : (∀ i f, i < j → (d ++ [e])[i]? = some f → f.expr ≠ e''.expr) ↔
      ∀ i f, i < j → d[i]? = some f → f.expr ≠ e''.expr :=
    forall_congr' fun i => forall_congr' fun f => forall_congr' fun hi => by rw [hbefore i hi]
  rw [hall]
  rcases Nat.lt_succ_iff_lt_or_eq.mp hlt with hold | rfl
  · exact h j e' (by rwa [List.getElem?_append_left hold] at hj)
  · obtain rfl : e = e' := by simpa using hj
    rw [he]
    refine ⟨fun hf i f _ hi => hf f (List.mem_of_getElem? hi), fun hf f hmem => ?_⟩
    obtain ⟨i, hi⟩ := List.mem_iff_getElem?.mp hmem
    exact hf i f (List.getElem?_eq_some_iff.mp hi).1 hi

/-- The first entry of an expression is active, so `Dup` looks at every entry (40_install.md R104). -/
theorem FirstActive.isDuplicate_iff {d : List DictEntry} (h : FirstActive d) (expr : List Byte) :
    isDuplicate d expr = true ↔ ∃ e ∈ d, e.expr = expr := by
  simp only [isDuplicate, List.any_eq_true, Bool.and_eq_true, decide_eq_true_eq]
  refine ⟨fun ⟨e, he, _, hexpr⟩ => ⟨e, he, hexpr⟩, fun ⟨e, he, hexpr⟩ => ?_⟩
  have hlt : d.findIdx (fun f => decide (f.expr = expr)) < d.length :=
    List.findIdx_lt_length_of_exists ⟨e, he, decide_eq_true hexpr⟩
  have hfirst : d[d.findIdx (fun f => decide (f.expr = expr))].expr = expr :=
    of_decide_eq_true (List.findIdx_getElem (w := hlt))
  refine ⟨_, List.getElem_mem hlt, (h _ _ (List.getElem?_eq_getElem hlt)).mpr fun i g hi hg hgexpr => ?_, hfirst⟩
  obtain ⟨hilt, rfl⟩ := List.getElem?_eq_some_iff.mp hg
  exact of_decide_eq_false (List.not_of_lt_findIdx hi) (hgexpr.trans hfirst)

/-- An entry stored with the flag `Dup` gives it keeps the first entries active. -/
theorem FirstActive.append_notDuplicate {d : List DictEntry} {e : DictEntry} (h : FirstActive d)
    (he : e.active = !isDuplicate d e.expr) : FirstActive (d ++ [e]) := by
  refine h.append ?_
  rw [he, Bool.not_eq_true', Bool.eq_false_iff, ne_eq, h.isDuplicate_iff]
  simp

/-- The active entries' expressions are pairwise distinct. -/
theorem FirstActive.nodup {d : List DictEntry} (h : FirstActive d) :
    ((d.filter (fun e => e.active)).map DictEntry.expr).Nodup := by
  rw [List.Nodup, List.pairwise_map, List.pairwise_filter, List.pairwise_iff_getElem]
  intro i j hi hj hij _ hactive
  exact (h j d[j] (List.getElem?_eq_getElem hj)).mp hactive i d[i] hij (List.getElem?_eq_getElem hi)

/-- Every expression some entry has is that of an active entry. -/
theorem FirstActive.mem_activeExprs {d : List DictEntry} (h : FirstActive d) {expr : List Byte}
    (hmem : ∃ e ∈ d, e.expr = expr) : expr ∈ (d.filter (fun e => e.active)).map DictEntry.expr := by
  simpa [isDuplicate, and_assoc] using (h.isDuplicate_iff expr).mpr hmem

/-- Every expression some entry has is that of exactly one active entry. -/
theorem FirstActive.one_active {d : List DictEntry} (h : FirstActive d) {expr : List Byte}
    (hmem : ∃ e ∈ d, e.expr = expr) : (d.filter (fun e => e.active && decide (e.expr = expr))).length = 1 := by
  have hcount : ((d.filter (fun e => e.active)).map DictEntry.expr).count expr = 1 := by
    rw [h.nodup.count, if_pos (h.mem_activeExprs hmem)]
  rw [← hcount, List.count, List.countP_map, List.countP_filter, List.countP_eq_length_filter]
  refine congrArg List.length (List.filter_congr fun e _ => ?_)
  rw [Bool.eq_iff_iff]
  simp only [Function.comp_apply, Bool.and_eq_true, decide_eq_true_eq, beq_iff_eq, and_comm]

/-! ### The line stage -/

/-- An invalid line is counted (40_install.md R103). -/
theorem addLine_of_invalid {p : Params} (b : DictBuild) {line : List Byte} (h : keyLine line = none) :
    addLine p b line = { b with invalidLines := countLine b.invalidLines } := by
  simp [addLine, h]

/-- A valid line past the capacity is counted (40_install.md R105). -/
theorem addLine_of_full {p : Params} {b : DictBuild} {line : List Byte} {l : KeyLine} (h : keyLine line = some l)
    (hfull : b.dict.length = p.customMax) :
    addLine p b line = { b with fullLines := countLine b.fullLines } := by
  simp [addLine, h, hfull]

/-- Any other valid line is stored as the next custom entry (40_install.md R103). -/
theorem addLine_of_room {p : Params} {b : DictBuild} {line : List Byte} {l : KeyLine} (h : keyLine line = some l)
    (hroom : b.dict.length ≠ p.customMax) :
    addLine p b line =
      { b with dict := b.dict ++ [⟨l.weight.setWidth 32, l.expr, true, !isDuplicate b.dict l.expr⟩] } := by
  simp [addLine, h, hroom]

/-- A saturating count goes on as the saturated exact count. -/
theorem countLine_min (n : Nat) : countLine (min n 0xFFFF) = min (n + 1) 0xFFFF := by
  rw [countLine, lineCountMax]
  omega

/-- What the line stage has stored and counted behind some lines: the first CUSTOM_MAX valid ones in order, the first
of equal expressions active, and the saturated numbers of invalid lines and of valid lines past the capacity
(40_install.md R102 to R105). -/
structure LinesStored (p : Params) (lines : List (List Byte)) (b : DictBuild) : Prop where
  entries : b.dict.map (fun e => (e.weight, e.expr, e.custom)) =
    ((lines.filterMap keyLine).take p.customMax).map (fun l => (l.weight.setWidth 32, l.expr, true))
  firstActive : FirstActive b.dict
  invalidLines : b.invalidLines = min (lines.countP (fun l => (keyLine l).isNone)) 0xFFFF
  fullLines : b.fullLines = min ((lines.filterMap keyLine).length - p.customMax) 0xFFFF

theorem linesStored_nil (p : Params) : LinesStored p [] ⟨[], 0, 0⟩ :=
  ⟨by simp, firstActive_nil, by simp, by simp⟩

theorem LinesStored.length {p : Params} {lines : List (List Byte)} {b : DictBuild} (h : LinesStored p lines b) :
    b.dict.length = min (lines.filterMap keyLine).length p.customMax := by
  simpa [Nat.min_comm] using congrArg List.length h.entries

/-- One more line. -/
theorem LinesStored.addLine {p : Params} {lines : List (List Byte)} {b : DictBuild} (h : LinesStored p lines b)
    (line : List Byte) : LinesStored p (lines ++ [line]) (addLine p b line) := by
  have hlength := h.length
  cases hline : keyLine line with
  | none =>
    have hvalid : (lines ++ [line]).filterMap keyLine = lines.filterMap keyLine := by simp [hline]
    rw [addLine_of_invalid b hline]
    refine ⟨by rw [hvalid, ← h.entries], h.firstActive, ?_, by rw [hvalid, ← h.fullLines]⟩
    simp [h.invalidLines, countLine_min, hline]
  | some l =>
    have hvalid : (lines ++ [line]).filterMap keyLine = lines.filterMap keyLine ++ [l] := by simp [hline]
    have hinvalid : (lines ++ [line]).countP (fun l => (keyLine l).isNone) =
        lines.countP (fun l => (keyLine l).isNone) := by simp [hline]
    by_cases hfull : b.dict.length = p.customMax
    · rw [addLine_of_full hline hfull]
      refine ⟨?_, h.firstActive, by rw [hinvalid, ← h.invalidLines], ?_⟩
      · rw [hvalid, List.take_append_of_le_length (by omega), ← h.entries]
      · show countLine b.fullLines = _
        rw [hvalid, h.fullLines, countLine_min, List.length_append, List.length_singleton]
        omega
    · rw [addLine_of_room hline hfull]
      refine ⟨?_, h.firstActive.append_notDuplicate rfl, by rw [hinvalid, ← h.invalidLines], ?_⟩
      · have hentries := h.entries
        rw [List.take_of_length_le (by omega)] at hentries
        rw [hvalid, List.take_of_length_le (by rw [List.length_append, List.length_singleton]; omega), List.map_append,
          hentries, List.map_append]
        rfl
      · rw [hvalid, h.fullLines, List.length_append, List.length_singleton]
        omega

/-- Some more lines. -/
theorem LinesStored.foldl {p : Params} {before : List (List Byte)} {b : DictBuild} (h : LinesStored p before b)
    (lines : List (List Byte)) : LinesStored p (before ++ lines) (lines.foldl (Machine.addLine p) b) := by
  induction lines generalizing before b with
  | nil => rwa [List.append_nil]
  | cons line lines ih =>
    rw [List.append_cons, List.foldl_cons]
    exact ih (h.addLine line)

/-- What the line stage leaves of a key text. -/
theorem addLines_stored (p : Params) (t : List Byte) : LinesStored p (splitLines t) (addLines p t) :=
  LinesStored.foldl (before := []) (linesStored_nil p) (splitLines t)

theorem customCountOf_eq (p : Params) (t : List Byte) :
    customCountOf p t = min ((splitLines t).filterMap keyLine).length p.customMax :=
  (addLines_stored p t).length

/-- Settles O31: the line stage's invariant, behind which only the byte entries are stored. -/
theorem customEntriesAreTheFirstValidLines : Obligations.CustomEntriesAreTheFirstValidLines := by
  intro p t
  have h := addLines_stored p t
  have hcustoms : (dictBuild p t).dict.take (customCountOf p t) = (addLines p t).dict := List.take_left
  refine ⟨customCountOf_eq p t, by rw [hcustoms, h.entries], hcustoms, h.invalidLines.trans ?_, h.fullLines⟩
  have hsplit := List.length_eq_countP_add_countP (fun l => (keyLine l).isSome) (l := splitLines t)
  simp only [Bool.not_eq_true, Option.isSome_eq_false_iff, Bool.decide_eq_true] at hsplit
  rw [List.length_filterMap_eq_countP]
  omega

/-! ### The byte entries -/

/-- One more byte entry, of a byte that has none yet. -/
theorem FirstActive.append_byteEntry (p : Params) {customs : List DictEntry} (hcustoms : FirstActive customs)
    {before : List Byte} (h : FirstActive (customs ++ before.map (byteEntry p customs))) {b : Byte}
    (hb : b ∉ before) : FirstActive (customs ++ (before ++ [b]).map (byteEntry p customs)) := by
  rw [List.map_append, ← List.append_assoc]
  refine h.append ?_
  have hdup : (byteEntry p customs b).active = true ↔ ∀ f ∈ customs, f.expr ≠ [b] := by
    rw [byteEntry, Bool.not_eq_true', Bool.eq_false_iff, ne_eq, hcustoms.isDuplicate_iff]
    simp
  rw [hdup, List.forall_mem_append]
  refine ⟨fun hall => ⟨hall, fun f hf hexpr => ?_⟩, And.left⟩
  obtain ⟨c, hc, rfl⟩ := List.mem_map.mp hf
  obtain rfl : c = b := by simpa [byteEntry] using hexpr
  exact hb hc

/-- Byte entries of distinct bytes behind the custom entries keep the first entries active. -/
theorem FirstActive.append_byteEntries (p : Params) {customs : List DictEntry} (hcustoms : FirstActive customs)
    (bytes : List Byte) {before : List Byte} (h : FirstActive (customs ++ before.map (byteEntry p customs)))
    (hdistinct : (before ++ bytes).Nodup) : FirstActive (customs ++ (before ++ bytes).map (byteEntry p customs)) := by
  induction bytes generalizing before with
  | nil => rwa [List.append_nil]
  | cons b bytes ih =>
    have hb : b ∉ before := fun hmem => (List.nodup_append.mp hdistinct).2.2 b hmem b List.mem_cons_self rfl
    rw [List.append_cons] at hdistinct ⊢
    exact ih (hcustoms.append_byteEntry p h hb) hdistinct

theorem allBytes_nodup : allBytes.Nodup := by
  rw [allBytes, List.Nodup, List.pairwise_map]
  refine List.Pairwise.imp_of_mem (fun {i j} hi hj hne hij => hne ?_) List.nodup_range
  rw [List.mem_range, byteEntries] at hi hj
  have hnat := congrArg BitVec.toNat hij
  rwa [BitVec.toNat_ofNat, BitVec.toNat_ofNat, Nat.mod_eq_of_lt hi, Nat.mod_eq_of_lt hj] at hnat

theorem dictBuild_firstActive (p : Params) (t : List Byte) : FirstActive (dictBuild p t).dict := by
  have hcustoms := (addLines_stored p t).firstActive
  exact hcustoms.append_byteEntries p allBytes (before := []) (by rwa [List.map_nil, List.append_nil]) allBytes_nodup

theorem length_dictBuild (p : Params) (t : List Byte) : (dictBuild p t).dict.length = customCountOf p t + 256 := by
  simp [dictBuild, registerBytes, customCountOf, allBytes, byteEntries]

/-- Entry `CUSTOM_COUNT + b` is the byte entry of `b` (40_install.md R106). -/
theorem getElem?_dictBuild_byte (p : Params) (t : List Byte) (b : Byte) :
    (dictBuild p t).dict[customCountOf p t + b.toNat]? = some (byteEntry p (addLines p t).dict b) := by
  have hb : b.toNat < byteEntries := b.isLt
  rw [dictBuild, registerBytes, customCountOf, List.getElem?_append_right (by omega), Nat.add_sub_cancel_left]
  simp [allBytes, hb]

/-- Each byte value is the expression of an active entry. -/
theorem byte_mem_activeExprs (p : Params) (t : List Byte) (b : Byte) :
    [b] ∈ ((dictBuild p t).dict.filter (fun e => e.active)).map DictEntry.expr :=
  (dictBuild_firstActive p t).mem_activeExprs ⟨_, List.mem_of_getElem? (getElem?_dictBuild_byte p t b), rfl⟩

/-- Settles O32: the first entries are active, and each byte value has a byte entry. -/
theorem onlyTheFirstOfEqualExpressionsIsActive : Obligations.OnlyTheFirstOfEqualExpressionsIsActive := by
  intro p t
  have h := dictBuild_firstActive p t
  exact ⟨fun b => h.one_active ⟨_, List.mem_of_getElem? (getElem?_dictBuild_byte p t b), rfl⟩, h.nodup, h⟩

/-- ByteWeight by the number a byte stands for (40_install.md R107, R108). -/
theorem byteWeight_eq (p : Params) (b : Byte) :
    byteWeight p b =
      if b ∈ [0x20#8, 0x22#8, 0x3A#8, 0x2E#8, 0x2C#8, 0x0A#8] ∨ b ∈ p.freqExtra then 10000#32
      else if 0x61 ≤ b.toNat ∧ b.toNat ≤ 0x7A then 1000#32
      else if 0x20 ≤ b.toNat ∧ b.toNat ≤ 0x7E then 200#32
      else 1#32 := by
  simp only [byteWeight, isFrequent, Bool.or_eq_true, List.contains_iff_mem, BitVec.le_def]
  rfl

/-- Settles O33: the byte entries by their places. -/
theorem byteEntriesFollowWithTheirWeights : Obligations.ByteEntriesFollowWithTheirWeights := by
  intro p t
  refine ⟨?_, length_dictBuild p t, fun b => ⟨_, getElem?_dictBuild_byte p t b, rfl, rfl, byteWeight_eq p b⟩⟩
  rw [customCountOf_eq]
  exact Nat.min_le_right _ _

end Sys2Proof.Machine
end

section
/-! PROOFS. The tree builder's loop: what a scan finds, a rule for what every merge keeps, and why the dictionary of a
key text always gives a tree (41_tree_builder.md R115 to R125). -/

namespace Sys2Proof.Machine

/-! ### What a scan finds -/

/-- The best node behind a node of the working set is that node or a best node found before. -/
theorem scanFrom_cons_true (i : Nat) (best : Option (Nat × Word)) (n : Node) (ns : List Node) (bs : Bits) :
    ∃ j w, (some (j, w) = some (i, nodeWeight n) ∨ some (j, w) = best) ∧
      scanFrom i best (n :: ns) (true :: bs) = scanFrom (i + 1) (some (j, w)) ns bs := by
  rcases best with _ | ⟨j, w⟩
  · exact ⟨i, nodeWeight n, .inl rfl, rfl⟩
  · by_cases hlt : nodeWeight n < w
    · exact ⟨i, nodeWeight n, .inl rfl, by simp [scanFrom, hlt]⟩
    · exact ⟨j, w, .inr rfl, by simp [scanFrom, hlt]⟩

/-- The scan ends with the best node it began with or with a node of the working set. -/
theorem scanFrom_some {j : Nat} {w : Word} : ∀ {pool : List Node} {inset : Bits} {i : Nat} {best : Option (Nat × Word)},
    scanFrom i best pool inset = some (j, w) →
      some (j, w) = best ∨ ∃ a, j = i + a ∧ inset[a]? = some true
  | [], _, _, _, h => .inl h.symm
  | _ :: _, [], _, _, h => .inl h.symm
  | n :: ns, false :: bs, i, best, h => by
    rcases scanFrom_some (pool := ns) (inset := bs) (i := i + 1) h with hbest | ⟨a, rfl, hin⟩
    · exact .inl hbest
    · exact .inr ⟨a + 1, by omega, hin⟩
  | n :: ns, true :: bs, i, best, h => by
    obtain ⟨j', w', hnew, hscan⟩ := scanFrom_cons_true i best n ns bs
    rcases scanFrom_some (hscan.symm.trans h) with hbest | ⟨a, rfl, hin⟩
    · cases hbest
      rcases hnew with hself | hold
      · cases hself
        exact .inr ⟨0, rfl, rfl⟩
      · exact .inl hold
    · exact .inr ⟨a + 1, by omega, hin⟩

/-- A scan that finds nothing has found nothing before and met no node of the working set. -/
theorem scanFrom_eq_none_iff : ∀ (pool : List Node) (inset : Bits) (i : Nat) (best : Option (Nat × Word)),
    inset.length = pool.length → (scanFrom i best pool inset = none ↔ best = none ∧ true ∉ inset)
  | [], [], _, _, _ => by simp [scanFrom]
  | n :: ns, false :: bs, i, best, h => by
    simpa [scanFrom] using scanFrom_eq_none_iff ns bs (i + 1) best (by simpa using h)
  | n :: ns, true :: bs, i, best, h => by
    obtain ⟨j, w, -, hscan⟩ := scanFrom_cons_true i best n ns bs
    rw [hscan, scanFrom_eq_none_iff ns bs (i + 1) _ (by simpa using h)]
    simp

/-! ### The working set through one merge -/

/-- The working set of a tree state has one bit for each node and holds `n` nodes. -/
structure WorkingSet (t : TreeState) (n : Nat) : Prop where
  length : t.inset.length = t.pool.length
  count : t.inset.count true = n

namespace WorkingSet
variable {t : TreeState} {n : Nat}

/-- A node of the working set is in the pool. -/
theorem lt (h : WorkingSet t n) {a : Nat} (ha : t.inset[a]? = some true) : a < t.pool.length :=
  h.length ▸ (List.getElem?_eq_some_iff.mp ha).1

/-- A scan of a working set that is not empty finds a node of it. -/
theorem scanMin_some (h : WorkingSet t (n + 1)) :
    ∃ a, scanMin t.pool t.inset = some a ∧ t.inset[a]? = some true := by
  have hmem : true ∈ t.inset := List.count_pos_iff.mp (by rw [h.count]; omega)
  cases hscan : scanFrom 0 none t.pool t.inset with
  | none => exact absurd hmem ((scanFrom_eq_none_iff _ _ _ _ h.length).mp hscan).2
  | some found =>
    obtain ⟨j, w⟩ := found
    rcases scanFrom_some hscan with hbest | ⟨a, rfl, hin⟩
    · cases hbest
    · exact ⟨a, by simp [scanMin, hscan], hin⟩

theorem scanMin_none (h : WorkingSet t 0) : scanMin t.pool t.inset = none := by
  have hmem : true ∉ t.inset := List.count_eq_zero.mp h.count
  rw [scanMin, (scanFrom_eq_none_iff _ _ _ _ h.length).mpr ⟨rfl, hmem⟩]
  rfl

theorem removeNode (h : WorkingSet t (n + 1)) {a : Nat} (ha : t.inset[a]? = some true) :
    WorkingSet (removeNode t a) n := by
  obtain ⟨hlt, hbit⟩ := List.getElem?_eq_some_iff.mp ha
  refine ⟨by simpa using h.length, ?_⟩
  rw [removeNode_inset, List.count_set hlt, hbit, h.count]
  rfl

theorem mergeNodes (h : WorkingSet t n) (a b : Nat) : WorkingSet (mergeNodes t a b) (n + 1) :=
  ⟨by simpa using h.length, by simp [h.count]⟩

end WorkingSet

/-! ### A rule for the loop -/

/-- One pass of the loop that merges nodes `a` and `b`, with `n` more nodes in the working set (41_tree_builder.md
R117, R118). -/
structure MergePass (t : TreeState) (n a b : Nat) : Prop where
  workingSet : WorkingSet t (n + 2)
  first : scanMin t.pool t.inset = some a
  firstIn : t.inset[a]? = some true
  second : scanMin t.pool (removeNode t a).inset = some b
  secondIn : (removeNode t a).inset[b]? = some true

/-- The tree state a merging pass leaves. -/
abbrev merged (t : TreeState) (a b : Nat) : TreeState := mergeNodes (removeNode (removeNode t a) b) a b

namespace MergePass
variable {t : TreeState} {n a b : Nat}

theorem of_workingSet (h : WorkingSet t (n + 2)) : ∃ a b, MergePass t n a b := by
  obtain ⟨a, hscan, hin⟩ := h.scanMin_some
  obtain ⟨b, hscan', hin'⟩ := (h.removeNode hin).scanMin_some
  exact ⟨a, b, h, hscan, hin, hscan', hin'⟩

theorem removed (h : MergePass t n a b) : WorkingSet (removeNode (removeNode t a) b) n :=
  (h.workingSet.removeNode h.firstIn).removeNode h.secondIn

theorem workingSet_merged (h : MergePass t n a b) : WorkingSet (merged t a b) (n + 1) := h.removed.mergeNodes a b

theorem first_lt (h : MergePass t n a b) : a < t.pool.length := h.workingSet.lt h.firstIn

theorem second_lt (h : MergePass t n a b) : b < t.pool.length :=
  (h.workingSet.removeNode h.firstIn).lt h.secondIn

theorem mergeLoop_eq (h : MergePass t n a b) {cap : Nat} (hroom : t.pool.length ≠ cap) (m : Nat) :
    mergeLoop cap t (m + 1) = mergeLoop cap (merged t a b) m := by
  have hsecond := h.second
  rw [removeNode_inset] at hsecond
  simp [mergeLoop, h.first, hsecond, hroom]

end MergePass

/-- With room for its merges the loop raises nothing, and what every merge keeps holds when one node is left
(41_tree_builder.md R121). -/
theorem mergeLoop_ends {cap : Nat} {P : TreeState → Prop}
    (hmerge : ∀ t n a b, MergePass t n a b → P t → P (merged t a b)) :
    ∀ (n : Nat) (t : TreeState), WorkingSet t (n + 1) → t.pool.length + n ≤ cap → P t →
      ∃ t' a, WorkingSet t' 1 ∧ P t' ∧ t'.pool.length = t.pool.length + n ∧ t'.inset[a]? = some true ∧
        mergeLoop cap t (n + 1) = ({ removeNode t' a with root := a }, none)
  | 0, t, hset, _, hP => by
    obtain ⟨a, hscan, hin⟩ := hset.scanMin_some
    have hempty : scanMin t.pool (removeNode t a).inset = none := (hset.removeNode hin).scanMin_none
    exact ⟨t, a, hset, hP, rfl, hin, by simp only [mergeLoop, hscan, hempty]⟩
  | n + 1, t, hset, hroom, hP => by
    obtain ⟨a, b, hpass⟩ := MergePass.of_workingSet hset
    have hlen : (merged t a b).pool.length = t.pool.length + 1 := by simp
    rw [hpass.mergeLoop_eq (by omega)]
    obtain ⟨t', c, hset', hP', hlen', hin, hloop⟩ :=
      mergeLoop_ends (cap := cap) hmerge n (merged t a b) hpass.workingSet_merged (by omega) (hmerge t n a b hpass hP)
    exact ⟨t', c, hset', hP', by omega, hin, hloop⟩

/-! ### The tree it leaves -/

/-- The pool of a tree in the making: every node is a leaf or an internal node, and children have lower indices. -/
structure PoolStands (pool : List Node) : Prop where
  notEmpty : ∀ i, i < pool.length → nodeAt pool i ≠ .empty
  children : ∀ i w l r, nodeAt pool i = .internal w l r → l < i ∧ r < i

theorem nodeAt_ne_empty_lt {pool : List Node} {i : Nat} (h : nodeAt pool i ≠ .empty) : i < pool.length :=
  Nat.lt_of_not_le fun hle => h (by rw [nodeAt, List.getElem?_eq_none hle, Option.getD_none])

theorem nodeAt_append_left {pool : List Node} {i : Nat} (h : i < pool.length) (n : Node) :
    nodeAt (pool ++ [n]) i = nodeAt pool i := by
  rw [nodeAt, List.getElem?_append_left h, nodeAt]

@[simp] theorem nodeAt_append_self (pool : List Node) (n : Node) : nodeAt (pool ++ [n]) pool.length = n := by
  simp [nodeAt]

/-- Children of a node that stands stand too (41_tree_builder.md R125). -/
theorem PoolStands.child_ne_empty {pool : List Node} (h : PoolStands pool) {i : Nat} {w : Word} {l r : Nat}
    (hi : nodeAt pool i = .internal w l r) : nodeAt pool l ≠ .empty ∧ nodeAt pool r ≠ .empty := by
  have hlt : i < pool.length := nodeAt_ne_empty_lt (by simp [hi])
  obtain ⟨hl, hr⟩ := h.children i w l r hi
  exact ⟨h.notEmpty l (by omega), h.notEmpty r (by omega)⟩

/-- A merged node behind its children. -/
theorem PoolStands.append_internal {pool : List Node} (h : PoolStands pool) {l r : Nat} (hl : l < pool.length)
    (hr : r < pool.length) (w : Word) : PoolStands (pool ++ [.internal w l r]) where
  notEmpty i hi := by
    rw [List.length_append, List.length_singleton] at hi
    rcases Nat.lt_succ_iff_lt_or_eq.mp hi with hold | rfl
    · rw [nodeAt_append_left hold]
      exact h.notEmpty i hold
    · simp
  children i w' l' r' hi := by
    have hlt := nodeAt_ne_empty_lt (show nodeAt (pool ++ [.internal w l r]) i ≠ .empty by simp [hi])
    rw [List.length_append, List.length_singleton] at hlt
    rcases Nat.lt_succ_iff_lt_or_eq.mp hlt with hold | rfl
    · rw [nodeAt_append_left hold] at hi
      exact h.children i w' l' r' hi
    · rw [nodeAt_append_self] at hi
      cases hi
      exact ⟨hl, hr⟩

/-- Every node of the leaves is a leaf. -/
theorem leavesFrom_leaf {n : Node} : ∀ {i : Nat} {dict : List DictEntry},
    n ∈ leavesFrom i dict → ∃ w d, n = .leaf w d
  | _, [], h => by simp [leavesFrom] at h
  | i, e :: es, h => by
    rw [leavesFrom] at h
    split at h
    · rcases List.mem_cons.mp h with rfl | h
      · exact ⟨_, _, rfl⟩
      · exact leavesFrom_leaf h
    · exact leavesFrom_leaf h

theorem length_leavesFrom (dict : List DictEntry) (i : Nat) :
    (leavesFrom i dict).length = (dict.filter (fun e => e.active)).length := by
  induction dict generalizing i with
  | nil => rfl
  | cons e es ih => cases he : e.active <;> simp [leavesFrom, he, ih]

theorem leavesFrom_stands (dict : List DictEntry) : PoolStands (leavesFrom 0 dict) := by
  have hleaf (i : Nat) (hi : i < (leavesFrom 0 dict).length) : ∃ w d, nodeAt (leavesFrom 0 dict) i = .leaf w d := by
    rw [nodeAt, List.getElem?_eq_getElem hi]
    exact leavesFrom_leaf (List.getElem_mem hi)
  constructor
  · intro i hi
    obtain ⟨w, d, hnode⟩ := hleaf i hi
    simp [hnode]
  · intro i w l r hi
    obtain ⟨w', d, hnode⟩ := hleaf i (nodeAt_ne_empty_lt (by simp [hi]))
    rw [hnode] at hi
    cases hi

/-- What every merge keeps: the pool stands, and a node left alone in the working set is an internal one. -/
structure TreeGrows (t : TreeState) : Prop where
  stands : PoolStands t.pool
  lastInternal : t.inset.count true = 1 → ∀ a, t.inset[a]? = some true → ∃ w l r, nodeAt t.pool a = .internal w l r

/-- A merge leaves the new node, an internal one, alone when it took the last two. -/
theorem TreeGrows.merge {t : TreeState} {n a b : Nat} (h : TreeGrows t) (hpass : MergePass t n a b) :
    TreeGrows (merged t a b) := by
  refine ⟨h.stands.append_internal hpass.first_lt hpass.second_lt _, fun hone c hc => ?_⟩
  rw [hpass.workingSet_merged.count, Nat.add_eq_right] at hone
  subst hone
  have hnone : true ∉ (removeNode (removeNode t a) b).inset := List.count_eq_zero.mp hpass.removed.count
  have hlen : (removeNode (removeNode t a) b).inset.length = t.pool.length := hpass.removed.length
  obtain rfl : c = t.pool.length := by
    have hlt := hpass.workingSet_merged.lt hc
    rw [mergeNodes_pool, List.length_append, List.length_singleton] at hlt
    rcases Nat.lt_succ_iff_lt_or_eq.mp hlt with hold | hnew
    · rw [mergeNodes_inset, List.getElem?_append_left (hlen ▸ hold)] at hc
      exact absurd (List.mem_of_getElem? hc) hnone
    · exact hnew
  exact ⟨_, a, b, nodeAt_append_self _ _⟩

/-- At least two leaves with room for their merges give a tree: the builder raises nothing, its root is an internal
node and its pool stands (41_tree_builder.md R121 to R125). -/
theorem treeBuild_stands {cap : Nat} {dict : List DictEntry} (root : Nat)
    (htwo : 2 ≤ (dict.filter (fun e => e.active)).length)
    (hcap : 2 * (dict.filter (fun e => e.active)).length - 1 ≤ cap) :
    ∃ tree, treeBuild cap dict root = (tree, none) ∧ PoolStands tree.pool ∧
      ∃ w l r, nodeAt tree.pool tree.root = .internal w l r := by
  obtain ⟨n, hn⟩ : ∃ n, (leavesFrom 0 dict).length = n + 2 := ⟨(leavesFrom 0 dict).length - 2, by
    rw [length_leavesFrom]; omega⟩
  have hset : WorkingSet (makeLeaves dict root) (n + 2) := ⟨by simp, by simp [hn]⟩
  have hstart : TreeGrows (makeLeaves dict root) :=
    ⟨leavesFrom_stands dict, fun hone => by rw [hset.count] at hone; omega⟩
  have hroom : (makeLeaves dict root).pool.length + (n + 1) ≤ cap := by
    rw [← length_leavesFrom dict 0, hn] at hcap
    rw [makeLeaves_pool, hn]
    omega
  obtain ⟨t, a, hone, hgrown, -, hin, hloop⟩ :=
    mergeLoop_ends (fun _ _ _ _ hpass h => h.merge hpass) (n + 1) (makeLeaves dict root) hset hroom hstart
  obtain ⟨w, l, r, hroot⟩ := hgrown.lastInternal hone.count a hin
  refine ⟨{ removeNode t a with root := a }, ?_, hgrown.stands, w, l, r, hroot⟩
  rw [treeBuild, makeLeaves_pool, hn, hloop]
  simp [checkRoot, hroot]

end Sys2Proof.Machine
end

section
/-! PROOFS. How deep the code generator goes in a pool that stands (42_code_table.md R130 to R134). -/

namespace Sys2Proof.Machine

/-- An internal node stands `depth` edges below node `n`. -/
def InternalBelow (pool : List Node) (n depth : Nat) : Prop :=
  ∃ path i w l r, path.length = depth ∧ reach pool n path = some i ∧ nodeAt pool i = .internal w l r

section
variable {pool : List Node} {n : Nat}

theorem internalBelow_zero_iff : InternalBelow pool n 0 ↔ ∃ w l r, nodeAt pool n = .internal w l r := by
  constructor
  · rintro ⟨path, i, w, l, r, hlen, hreach, hi⟩
    obtain rfl := List.eq_nil_of_length_eq_zero hlen
    cases hreach
    exact ⟨w, l, r, hi⟩
  · rintro ⟨w, l, r, hn⟩
    exact ⟨[], n, w, l, r, rfl, rfl, hn⟩

theorem not_internalBelow_of_leaf {w : Word} {dix : Nat} (hn : nodeAt pool n = .leaf w dix) (depth : Nat) :
    ¬ InternalBelow pool n depth := by
  rintro ⟨_ | ⟨b, path⟩, i, w', l, r, -, hreach, hi⟩
  · cases hreach
    rw [hn] at hi
    cases hi
  · simp [reach, hn, childOf] at hreach

theorem internalBelow_succ_iff {w : Word} {l r : Nat} (hn : nodeAt pool n = .internal w l r) (depth : Nat) :
    InternalBelow pool n (depth + 1) ↔ InternalBelow pool l depth ∨ InternalBelow pool r depth := by
  constructor
  · rintro ⟨_ | ⟨b, path⟩, i, w', l', r', hlen, hreach, hi⟩
    · cases hlen
    · have hpath : path.length = depth := by simpa using hlen
      cases b with
      | false => exact .inl ⟨path, i, w', l', r', hpath, by simpa [reach, hn, childOf] using hreach, hi⟩
      | true => exact .inr ⟨path, i, w', l', r', hpath, by simpa [reach, hn, childOf] using hreach, hi⟩
  · rintro (⟨path, i, w', l', r', hlen, hreach, hi⟩ | ⟨path, i, w', l', r', hlen, hreach, hi⟩)
    · exact ⟨false :: path, i, w', l', r', by simp [hlen], by simpa [reach, hn, childOf] using hreach, hi⟩
    · exact ⟨true :: path, i, w', l', r', by simp [hlen], by simpa [reach, hn, childOf] using hreach, hi⟩

/-- A visit of an internal node fails with the first error of its children's visits. -/
theorem visit_of_internal_error_iff {dict : List DictEntry} {path : Bits} {w : Word} {l r room : Nat} {e : ErrCode}
    (hn : nodeAt pool n = .internal w l r) :
    visit pool dict n path (room + 1) = .error e ↔
      visit pool dict l (path ++ [false]) room = .error e ∨
        (∃ ls, visit pool dict l (path ++ [false]) room = .ok ls) ∧
          visit pool dict r (path ++ [true]) room = .error e := by
  cases hl : visit pool dict l (path ++ [false]) room with
  | error e' => simp [visit, hn, hl]
  | ok ls => cases hr : visit pool dict r (path ++ [true]) room <;> simp [visit, hn, hl, hr]

end

/-- In a pool that stands, the visit of a node fails exactly when an internal node stands as deep below it as there
is room, and then with CodeTooLong (42_code_table.md R133, R134). -/
theorem visit_error_iff {pool : List Node} (hpool : PoolStands pool) (dict : List DictEntry) {n room : Nat}
    {path : Bits} {e : ErrCode} (hn : nodeAt pool n ≠ .empty) :
    visit pool dict n path room = .error e ↔ e = .codeTooLong ∧ InternalBelow pool n room := by
  induction room generalizing n path e with
  | zero =>
    rw [internalBelow_zero_iff]
    cases hnode : nodeAt pool n with
    | empty => exact absurd hnode hn
    | leaf w dix => simp [visit_of_leaf 0 hnode]
    | internal w l r => simp [visit_of_internal_zero hnode, eq_comm]
  | succ room ih =>
    cases hnode : nodeAt pool n with
    | empty => exact absurd hnode hn
    | leaf w dix => simp [visit_of_leaf (room + 1) hnode, not_internalBelow_of_leaf hnode]
    | internal w l r =>
      obtain ⟨hl, hr⟩ := hpool.child_ne_empty hnode
      rw [visit_of_internal_error_iff hnode, internalBelow_succ_iff hnode, ih hl, ih hr]
      cases hleft : visit pool dict l (path ++ [false]) room with
      | error e' => simp [((ih hl).mp hleft).2]
      | ok ls =>
        have hno : ¬ InternalBelow pool l room := fun hdeep => by
          rw [(ih hl).mpr ⟨rfl, hdeep⟩] at hleft
          cases hleft
        simp [hno]

end Sys2Proof.Machine
end

section
/-! PROOFS. What an install leaves and which errors it can end with, and the command INSTALL (40_install.md R100 to
R113). -/

namespace Sys2Proof.Machine

/-! ### An install never fails before the code generator -/

/-- The dictionary of every key text has at least 256 active entries. -/
theorem le_activeEntries (p : Params) (t : List Byte) :
    256 ≤ ((dictBuild p t).dict.filter (fun e => e.active)).length := by
  have hbytes : (allBytes.map (fun b => [b])).Nodup := 
    List.Pairwise.map _ (fun a b hne h => hne (List.singleton_inj.mp h)) allBytes_nodup
  have hsub : allBytes.map (fun b => [b]) ⊆ ((dictBuild p t).dict.filter (fun e => e.active)).map DictEntry.expr := by
    intro expr hexpr
    obtain ⟨b, -, rfl⟩ := List.mem_map.mp hexpr
    exact byte_mem_activeExprs p t b
  simpa [allBytes, byteEntries] using hbytes.length_le_of_subset hsub

/-- The leaves of every key text fit in the pool with their merges (41_tree_builder.md R124). -/
theorem dictBuild_fits (p : Params) (t : List Byte) :
    2 * ((dictBuild p t).dict.filter (fun e => e.active)).length - 1 ≤ nodeCap p := by
  have hactive := List.length_filter_le (fun e : DictEntry => e.active) (dictBuild p t).dict
  have hcount := customCountOf_eq p t
  rw [length_dictBuild] at hactive
  rw [nodeCap, dictCap, byteEntries]
  omega

/-- The tree builder raises nothing for the dictionary of any key text (40_install.md R113). -/
theorem treeBuild_dictBuild (p : Params) (t : List Byte) (root : Nat) :
    ∃ tree, treeBuild (nodeCap p) (dictBuild p t).dict root = (tree, none) ∧ PoolStands tree.pool ∧
      ∃ w l r, nodeAt tree.pool tree.root = .internal w l r :=
  treeBuild_stands root (Nat.le_trans (by decide) (le_activeEntries p t)) (dictBuild_fits p t)

/-- An install whose tree stands and whose code generator fails. -/
theorem installKey_of_codeGen_error {p : Params} {t : List Byte} {k : KeyTables} {tree : TreeState} {e : ErrCode}
    (htree : treeBuild (nodeCap p) (dictBuild p t).dict k.root = (tree, none))
    (hcode : codeGen tree.pool (dictBuild p t).dict tree.root = .error e) (implicit : Bool) :
    installKey p t implicit k =
      (failKey (withTree tree (withDictionary (customCountOf p t) (dictBuild p t) (discardKey k))), .error e) := by
  simp [installKey, htree, finishInstall, hcode]

/-- Every install leaves the dictionary of its text and the tree built from it (40_install.md R103, R115). -/
theorem installKey_tables (p : Params) (t : List Byte) (implicit : Bool) (k : KeyTables) :
    let tree := (treeBuild (nodeCap p) (dictBuild p t).dict k.root).1
    let k' := (installKey p t implicit k).1
    k'.dict = (dictBuild p t).dict ∧ k'.pool = tree.pool ∧ k'.inset = tree.inset ∧ k'.root = tree.root := by
  obtain ⟨tree, htree, -, -⟩ := treeBuild_dictBuild p t k.root
  rw [htree]
  cases hcode : codeGen tree.pool (dictBuild p t).dict tree.root with
  | error e => simp [installKey_of_codeGen_error htree hcode]
  | ok ct => simp [installKey_ok htree hcode]

/-- Settles O24: the tree builder raises nothing, so only the code generator can fail, and it fails with CodeTooLong
exactly when an internal node stands 128 edges below the root. -/
theorem installFailsOnlyByCodeTooLong : Obligations.InstallFailsOnlyByCodeTooLong := by
  intro p t implicit k
  obtain ⟨tree, htree, hpool, w, l, r, hroot⟩ := treeBuild_dictBuild p t k.root
  have htables := installKey_tables p t implicit k
  rw [htree] at htables ⊢
  have hdeep {e : ErrCode} : codeGen tree.pool (dictBuild p t).dict tree.root = .error e ↔
      e = .codeTooLong ∧ InternalBelow tree.pool tree.root 128 :=
    visit_error_iff hpool _ (by simp [hroot])
  cases hcode : codeGen tree.pool (dictBuild p t).dict tree.root with
  | error e =>
    obtain ⟨rfl, hbelow⟩ := hdeep.mp hcode
    have hinstall := installKey_of_codeGen_error htree hcode implicit
    exact ⟨.inr (by simp [hinstall]), iff_of_true (by rw [hinstall]) hbelow, htables⟩
  | ok ct =>
    have hinstall := installKey_ok htree hcode implicit
    refine ⟨.inl (by simp [hinstall]), iff_of_false (by simp [hinstall]) fun hbelow => ?_, htables⟩
    rw [hdeep.mpr ⟨rfl, hbelow⟩] at hcode
    cases hcode

/-! ### The command -/

/-- The meaning of INSTALL is its command. -/
theorem exec_install_eq (s : State) : exec .install s = .next (installCommand s) := rfl

theorem length_filter_valid (lines : List (List Byte)) :
    (lines.filter (fun l => (keyLine l).isSome)).length = (lines.filterMap keyLine).length := by
  rw [List.length_filterMap_eq_countP, List.countP_eq_length_filter]

theorem dictBuild_invalidLines (p : Params) (t : List Byte) :
    (dictBuild p t).invalidLines = min ((splitLines t).filter (fun l => (keyLine l).isNone)).length 0xFFFF := by
  rw [← List.countP_eq_length_filter]
  exact (addLines_stored p t).invalidLines

theorem dictBuild_fullLines (p : Params) (t : List Byte) :
    (dictBuild p t).fullLines =
      min (((splitLines t).filter (fun l => (keyLine l).isSome)).length - p.customMax) 0xFFFF := by
  rw [length_filter_valid]
  exact (addLines_stored p t).fullLines

/-- The line counts every install leaves, by the valid and the invalid lines of its text (40_install.md R103). -/
theorem installKey_lineCounts (p : Params) (t : List Byte) (implicit : Bool) (k : KeyTables) :
    let valid := ((splitLines t).filter (fun l => (keyLine l).isSome)).length
    let invalid := ((splitLines t).filter (fun l => (keyLine l).isNone)).length
    let k' := (installKey p t implicit k).1
    k'.customCount = BitVec.ofNat 8 (min valid p.customMax) ∧
      k'.invalidLines = BitVec.ofNat 16 (min invalid 0xFFFF) ∧
      k'.fullLines = BitVec.ofNat 16 (min (valid - p.customMax) 0xFFFF) ∧
      k'.lineInvalid = decide (0 < invalid) ∧ k'.dictFull = decide (p.customMax < valid) := by
  obtain ⟨hcustom, hinvalid, hfull, hlineInvalid, hdictFull, -⟩ := installKey_counts p t implicit k
  rw [dictBuild_invalidLines] at hinvalid hlineInvalid
  rw [dictBuild_fullLines] at hfull hdictFull
  rw [customCountOf_eq, ← length_filter_valid] at hcustom
  exact ⟨hcustom, hinvalid, hfull, hlineInvalid.trans (decide_eq_decide.mpr (by omega)),
    hdictFull.trans (decide_eq_decide.mpr (by omega))⟩

/-- The warning of a successful install, by the lines of its text (40_install.md R110). -/
theorem installCode_dictBuild (p : Params) (t : List Byte) :
    let valid := ((splitLines t).filter (fun l => (keyLine l).isSome)).length
    let invalid := ((splitLines t).filter (fun l => (keyLine l).isNone)).length
    installCode (dictBuild p t).invalidLines (dictBuild p t).fullLines =
      if p.customMax < valid then .dictionaryFull else if 0 < invalid then .invalidExpressionLine else .ok := by
  rw [dictBuild_invalidLines, dictBuild_fullLines, installCode]
  refine ite_congr (propext (by omega)) (fun _ => rfl) fun _ => ?_
  exact ite_congr (propext (by omega)) (fun _ => rfl) fun _ => rfl

/-- An explicit install leaves STATUS.DEFAULT_KEY 0 (40_install.md R109). -/
theorem installKey_explicit_defaultKey (p : Params) (t : List Byte) (k : KeyTables) :
    (installKey p t false k).1.defaultKey = false := by
  rcases installKey_cases p t false k with ⟨e, -, -, hdefault, -⟩ | ⟨tree, ct, -, -, -, hkey⟩
  · exact hdefault
  · rw [hkey, finishKey_defaultKey]

/-- The two outcomes of an install with the codes they report (40_install.md R109, R110). -/
theorem installKey_reports (p : Params) (t : List Byte) (implicit : Bool) (k : KeyTables) :
    let r := installKey p t implicit k
    (r.1.state = .valid ∧
        reportedCode r.2 = installCode (dictBuild p t).invalidLines (dictBuild p t).fullLines) ∨
      (r.1.state = .failed ∧ NoCodes r.1 ∧ reportedCode r.2 ∈ fatalCodes) := by
  rcases installKey_cases p t implicit k with ⟨e, herr, hfailed, -, hcodes⟩ | ⟨tree, ct, -, -, hok, hkey⟩
  · exact .inr ⟨hfailed, hcodes, by rw [herr]; exact installKey_error herr⟩
  · exact .inl ⟨by rw [hkey, finishKey_state], by rw [hok]; rfl⟩

/-- A completion with new key tables changes those and the completion's fields only (45_control.md R182, R188). -/
theorem complete_withKey_frame (c : ErrCode) (k : KeyTables) (s : State) :
    let t := complete c { s with key := k }
    CompletedWith c s t ∧ HostSideSame s t ∧ MemorySame s t :=
  ⟨{ complete_completedWith c { s with key := k } with }, { complete_hostSideSame c { s with key := k } with },
    fun a => byteAt_congr rfl rfl rfl rfl a⟩

/-- Settles O23: the completion of an install of the key text, its counts, and its two outcomes. -/
theorem installCompletesWithItsKeyAndFrame : Obligations.InstallCompletesWithItsKeyAndFrame := by
  refine ⟨fun s => rfl, fun s hfit => ?_⟩
  intro lines valid invalid
  obtain ⟨-, hs⟩ := (installCommand_cases s).resolve_left fun hover => by omega
  have hcounts := installKey_lineCounts s.cfg (keyText s) false s.key
  have hdefault := installKey_explicit_defaultKey s.cfg (keyText s) s.key
  have houtcome := installKey_reports s.cfg (keyText s) false s.key
  rw [installCode_dictBuild] at houtcome
  rw [exec_install_eq, hs]
  generalize installKey s.cfg (keyText s) false s.key = r at hcounts hdefault houtcome ⊢
  obtain ⟨hcustom, hinvalid, hfull, hlineInvalid, hdictFull⟩ := hcounts
  obtain ⟨hcompleted, hhost, hmem⟩ := complete_withKey_frame (reportedCode r.2) r.1 s
  exact ⟨_, rfl, hcompleted, hhost, rfl, rfl, rfl, rfl, rfl, rfl, hmem, hcustom, hinvalid, hfull, hlineInvalid,
    hdictFull, hdefault, houtcome⟩

/-- Settles O22: the refused INSTALL is a completion with CapacityError. -/
theorem installOverKeyMaxKeepsTheOldKey : Obligations.InstallOverKeyMaxKeepsTheOldKey := by
  intro s hover
  obtain ⟨-, hs⟩ := (installCommand_cases s).resolve_right fun hfit => by omega
  rw [exec_install_eq, hs]
  rfl

end Sys2Proof.Machine
end

section
/-! PROOFS. The scan and the leaves of the tree builder, and the errors of its loop (41_tree_builder.md R116, R117,
R122 to R124). -/

namespace Sys2Proof.Machine

@[simp] theorem nodeAt_cons_zero (n : Node) (ns : List Node) : nodeAt (n :: ns) 0 = n := rfl

@[simp] theorem nodeAt_cons_succ (n : Node) (ns : List Node) (i : Nat) : nodeAt (n :: ns) (i + 1) = nodeAt ns i := rfl

/-! ### The minimum scan -/

/-- No node of the working set is lighter than `w`. -/
def NoneLighter (pool : List Node) (inset : Bits) (w : Word) : Prop :=
  ∀ j, j < pool.length → inset[j]? = some true → w ≤ nodeWeight (nodeAt pool j)

/-- Node `a` is in the working set, no node of it is lighter, and every earlier one is heavier (41_tree_builder.md
R117). -/
structure FirstMin (pool : List Node) (inset : Bits) (a : Nat) : Prop where
  lt : a < pool.length
  mem : inset[a]? = some true
  least : ∀ j, j < pool.length → inset[j]? = some true →
    nodeWeight (nodeAt pool a) ≤ nodeWeight (nodeAt pool j) ∧
      (j < a → nodeWeight (nodeAt pool a) < nodeWeight (nodeAt pool j))

section
variable {n : Node} {ns : List Node} {b : Bool} {bs : Bits}

theorem noneLighter_cons_iff {w : Word} :
    NoneLighter (n :: ns) (b :: bs) w ↔ (b = true → w ≤ nodeWeight n) ∧ NoneLighter ns bs w := by
  rw [NoneLighter, List.length_cons, Nat.forall_lt_succ_left]
  simp [NoneLighter]

theorem firstMin_cons_zero (hb : b = true) (h : NoneLighter ns bs (nodeWeight n)) : FirstMin (n :: ns) (b :: bs) 0 where
  lt := Nat.zero_lt_succ _
  mem := by simp [hb]
  least j hj hmem := ⟨noneLighter_cons_iff.mpr ⟨fun _ => BitVec.le_refl _, h⟩ j hj hmem, nofun⟩

theorem FirstMin.cons {a : Nat} (h : FirstMin ns bs a) (hn : b = true → nodeWeight (nodeAt ns a) < nodeWeight n) :
    FirstMin (n :: ns) (b :: bs) (a + 1) where
  lt := Nat.succ_lt_succ h.lt
  mem := h.mem
  least
    | 0, _, hmem => by
      have hlt := hn (by simpa using hmem)
      exact ⟨BitVec.le_of_lt hlt, fun _ => hlt⟩
    | j + 1, hj, hmem => by
      obtain ⟨hle, hlt⟩ := h.least j (Nat.lt_of_succ_lt_succ hj) hmem
      exact ⟨hle, fun hja => hlt (Nat.lt_of_succ_lt_succ hja)⟩

end

theorem FirstMin.unique {pool : List Node} {inset : Bits} {a b : Nat} (ha : FirstMin pool inset a)
    (hb : FirstMin pool inset b) : a = b := by
  rcases Nat.lt_trichotomy a b with hlt | heq | hgt
  · exact absurd (ha.least b hb.lt hb.mem).1 (BitVec.not_le.mpr ((hb.least a ha.lt ha.mem).2 hlt))
  · exact heq
  · exact absurd (hb.least a ha.lt ha.mem).1 (BitVec.not_le.mpr ((ha.least b hb.lt hb.mem).2 hgt))

/-- The first minimum scans before every other node of the working set. -/
theorem FirstMin.scansBefore {pool : List Node} {inset : Bits} {a j : Nat} (h : FirstMin pool inset a)
    (hj : j < pool.length) (hmem : inset[j]? = some true) (hne : j ≠ a) : ScansBefore pool a j := by
  obtain ⟨hle, hlt⟩ := h.least j hj hmem
  rcases Nat.lt_or_gt_of_ne hne with hbefore | hafter
  · exact .inl (hlt hbefore)
  · by_cases heq : nodeWeight (nodeAt pool a) = nodeWeight (nodeAt pool j)
    · exact .inr ⟨heq, hafter⟩
    · exact .inl (BitVec.lt_of_le_ne hle heq)

/-- The best node behind a node of the working set: the one found before, or that node if it is lighter. -/
theorem scanFrom_cons_best (i : Nat) (best : Option (Nat × Word)) (n : Node) (ns : List Node) (bs : Bits) :
    ∃ j w, scanFrom i best (n :: ns) (true :: bs) = scanFrom (i + 1) (some (j, w)) ns bs ∧ w ≤ nodeWeight n ∧
      (best = some (j, w) ∨ j = i ∧ w = nodeWeight n ∧ ∀ b ∈ best, w < b.2) := by
  rcases best with _ | ⟨j, w⟩
  · exact ⟨i, nodeWeight n, rfl, BitVec.le_refl _, .inr ⟨rfl, rfl, nofun⟩⟩
  · by_cases hlt : nodeWeight n < w
    · exact ⟨i, nodeWeight n, by simp [scanFrom, hlt], BitVec.le_refl _, .inr ⟨rfl, rfl, by simpa using hlt⟩⟩
    · exact ⟨j, w, by simp [scanFrom, hlt], BitVec.not_lt.mp hlt, .inl rfl⟩

/-- A scan ends with the best node it began with, if no node of the working set is lighter, or with the first minimum,
if that is lighter (41_tree_builder.md R117). -/
theorem scanFrom_best {j : Nat} {w : Word} : ∀ {pool : List Node} {inset : Bits} {i : Nat}
    {best : Option (Nat × Word)}, scanFrom i best pool inset = some (j, w) →
      (best = some (j, w) ∧ NoneLighter pool inset w) ∨
        ∃ a, j = i + a ∧ w = nodeWeight (nodeAt pool a) ∧ FirstMin pool inset a ∧ ∀ b ∈ best, w < b.2
  | [], _, _, _, h => .inl ⟨h, nofun⟩
  | n :: ns, [], _, _, h => .inl ⟨h, fun _ _ hmem => by simp at hmem⟩
  | n :: ns, false :: bs, i, best, h => by
    rcases scanFrom_best (pool := ns) (inset := bs) (i := i + 1) h with ⟨hbest, hnone⟩ | ⟨a, rfl, hw, hmin, hlt⟩
    · exact .inl ⟨hbest, noneLighter_cons_iff.mpr ⟨nofun, hnone⟩⟩
    · exact .inr ⟨a + 1, by omega, hw, hmin.cons nofun, hlt⟩
  | n :: ns, true :: bs, i, best, h => by
    obtain ⟨j', w', hscan, hle, hnew⟩ := scanFrom_cons_best i best n ns bs
    rcases scanFrom_best (hscan.symm.trans h) with ⟨hbest, hnone⟩ | ⟨a, rfl, hw, hmin, hlt⟩
    · cases hbest
      rcases hnew with hold | ⟨rfl, rfl, hlighter⟩
      · exact .inl ⟨hold, noneLighter_cons_iff.mpr ⟨fun _ => hle, hnone⟩⟩
      · exact .inr ⟨0, rfl, rfl, firstMin_cons_zero rfl hnone, hlighter⟩
    · have hlt' : w < w' := hlt _ rfl
      have hn : w < nodeWeight n := by bv_omega
      refine .inr ⟨a + 1, by omega, hw, hmin.cons fun _ => hw ▸ hn, ?_⟩
      rcases hnew with rfl | ⟨-, -, hlighter⟩
      · exact hlt
      · exact fun b hb => BitVec.lt_trans hlt' (hlighter b hb)

/-- A scan that finds nothing has found nothing before and met no node of the working set. -/
theorem scanFrom_none : ∀ {pool : List Node} {inset : Bits} {i : Nat} {best : Option (Nat × Word)},
    scanFrom i best pool inset = none → best = none ∧ ∀ j, j < pool.length → inset[j]? ≠ some true
  | [], _, _, _, h => ⟨h, nofun⟩
  | _ :: _, [], _, _, h => ⟨h, by simp⟩
  | n :: ns, false :: bs, i, best, h => by
    obtain ⟨hbest, hnone⟩ := scanFrom_none (pool := ns) (inset := bs) (i := i + 1) h
    rw [List.length_cons, Nat.forall_lt_succ_left]
    exact ⟨hbest, by simp, hnone⟩
  | n :: ns, true :: bs, i, best, h => by
    obtain ⟨j, w, hscan, -⟩ := scanFrom_cons_best i best n ns bs
    obtain ⟨hbest, -⟩ := scanFrom_none (hscan.symm.trans h)
    cases hbest

theorem firstMin_of_scanMin {pool : List Node} {inset : Bits} {a : Nat} (h : scanMin pool inset = some a) :
    FirstMin pool inset a := by
  obtain ⟨⟨j, w⟩, hscan, rfl⟩ := Option.map_eq_some_iff.mp h
  rcases scanFrom_best hscan with ⟨hbest, -⟩ | ⟨a, rfl, -, hmin, -⟩
  · cases hbest
  · rwa [Nat.zero_add]

theorem scanMin_eq_none_iff (pool : List Node) (inset : Bits) :
    scanMin pool inset = none ↔ ∀ j, j < pool.length → inset[j]? ≠ some true := by
  constructor
  · exact fun h => (scanFrom_none (Option.map_eq_none_iff.mp h)).2
  · intro hempty
    cases hscan : scanMin pool inset with
    | none => rfl
    | some a =>
      have hmin := firstMin_of_scanMin hscan
      exact absurd hmin.mem (hempty a hmin.lt)

/-- The scan answers the first minimum of the working set (41_tree_builder.md R117). -/
theorem scanMin_eq_some_iff (pool : List Node) (inset : Bits) (a : Nat) :
    scanMin pool inset = some a ↔ FirstMin pool inset a := by
  refine ⟨firstMin_of_scanMin, fun hmin => ?_⟩
  cases hscan : scanMin pool inset with
  | none => exact absurd hmin.mem ((scanMin_eq_none_iff pool inset).mp hscan a hmin.lt)
  | some b => rw [(firstMin_of_scanMin hscan).unique hmin]

/-- Settles O34: the scan answers the first minimum, which is the only one, and none without a member. -/
theorem scanMinIsTheLowestIndexOfTheMinimum : Obligations.ScanMinIsTheLowestIndexOfTheMinimum := by
  intro pool inset
  refine ⟨fun a => ?_, scanMin_eq_none_iff pool inset⟩
  rw [scanMin_eq_some_iff]
  exact ⟨fun h => ⟨h.lt, h.mem, h.least⟩, fun ⟨hlt, hmem, hleast⟩ => ⟨hlt, hmem, hleast⟩⟩

/-! ### The leaves -/

/-- A leaf's place among the leaves, weight and dictionary index are those of its entry (41_tree_builder.md R116). -/
theorem leavesFrom_getElem? {w : Word} {d : Nat} : ∀ {dict : List DictEntry} {i j : Nat},
    (leavesFrom i dict)[j]? = some (.leaf w d) →
      ∃ k e, d = i + k ∧ dict[k]? = some e ∧ e.active = true ∧ e.weight = w ∧
        j = ((dict.take k).filter (fun e => e.active)).length
  | [], _, _, h => by simp [leavesFrom] at h
  | e :: es, i, j, h => by
    cases he : e.active with
    | false =>
      simp only [leavesFrom, he] at h
      obtain ⟨k, f, rfl, hf, hactive, hw, rfl⟩ := leavesFrom_getElem? h
      exact ⟨k + 1, f, by omega, hf, hactive, hw, by simp [he]⟩
    | true =>
      simp only [leavesFrom, he, if_true] at h
      cases j with
      | zero =>
        cases h
        exact ⟨0, e, rfl, rfl, he, rfl, rfl⟩
      | succ j =>
        obtain ⟨k, f, rfl, hf, hactive, hw, rfl⟩ := leavesFrom_getElem? h
        exact ⟨k + 1, f, by omega, hf, hactive, hw, by simp [he]⟩

/-- Each active entry has its leaf at the place given by the active entries before it (41_tree_builder.md R116). -/
theorem getElem?_leavesFrom {e : DictEntry} (hactive : e.active = true) : ∀ {dict : List DictEntry} {i k : Nat},
    dict[k]? = some e →
      (leavesFrom i dict)[((dict.take k).filter (fun e => e.active)).length]? = some (.leaf e.weight (i + k))
  | [], _, _, h => by simp at h
  | f :: es, i, 0, h => by
    cases h
    simp [leavesFrom, hactive]
  | f :: es, i, k + 1, h => by
    have ih := getElem?_leavesFrom hactive (i := i + 1) (k := k) (dict := es) h
    rw [Nat.add_assoc, Nat.add_comm 1 k] at ih
    cases hf : f.active <;> simpa [leavesFrom, hf] using ih

/-- Settles O36: a leaf by its entry and an active entry by its leaf, from the first entry on. -/
theorem leavesAreTheActiveEntries : Obligations.LeavesAreTheActiveEntries := by
  intro dict
  refine ⟨length_leavesFrom dict 0, fun j w i h => ?_, fun i e he hactive => ?_⟩
  · obtain ⟨k, e, rfl, he, hactive, hw, hj⟩ := leavesFrom_getElem? h
    rw [Nat.zero_add]
    exact ⟨e, he, hactive, hw, hj⟩
  · simpa using getElem?_leavesFrom hactive (i := 0) he

theorem nodeAt_leavesFrom_leaf {dict : List DictEntry} {i j : Nat} (h : j < (leavesFrom i dict).length) :
    ∃ w d, nodeAt (leavesFrom i dict) j = .leaf w d := by
  rw [nodeAt, List.getElem?_eq_getElem h]
  exact leavesFrom_leaf (List.getElem_mem h)

/-! ### The loop's errors -/

theorem workingSet_makeLeaves (dict : List DictEntry) (root : Nat) :
    WorkingSet (makeLeaves dict root) (dict.filter (fun e => e.active)).length :=
  ⟨by simp, by simp [length_leavesFrom]⟩

/-- With one node in the working set the loop ends with that node as the root (41_tree_builder.md R115). -/
theorem WorkingSet.mergeLoop_one {t : TreeState} (h : WorkingSet t 1) (cap : Nat) :
    ∃ a, t.inset[a]? = some true ∧ mergeLoop cap t 1 = ({ Machine.removeNode t a with root := a }, none) := by
  obtain ⟨a, hscan, hin⟩ := h.scanMin_some
  have hempty : scanMin t.pool (Machine.removeNode t a).inset = none := (h.removeNode hin).scanMin_none
  exact ⟨a, hin, by simp only [mergeLoop, hscan, hempty]⟩

/-- A merge with no node free is an AllocationFailure (41_tree_builder.md R124). -/
theorem MergePass.mergeLoop_full {t : TreeState} {n a b cap : Nat} (h : MergePass t n a b) (hfull : t.pool.length = cap)
    (m : Nat) : (mergeLoop cap t (m + 1)).2 = some .allocationFailure := by
  simp only [mergeLoop, h.first, h.second, hfull, if_true]

/-- With less room than its merges need the loop ends with AllocationFailure (41_tree_builder.md R121, R124). -/
theorem mergeLoop_allocationFailure {cap : Nat} : ∀ (n : Nat) (t : TreeState), WorkingSet t (n + 1) →
    t.pool.length ≤ cap → cap < t.pool.length + n → (mergeLoop cap t (n + 1)).2 = some .allocationFailure
  | 0, _, _, hfits, hroom => by omega
  | n + 1, t, hset, hfits, hroom => by
    obtain ⟨a, b, hpass⟩ := MergePass.of_workingSet hset
    by_cases hfull : t.pool.length = cap
    · exact hpass.mergeLoop_full hfull _
    · have hlen : (merged t a b).pool.length = t.pool.length + 1 := by simp
      rw [hpass.mergeLoop_eq hfull]
      exact mergeLoop_allocationFailure n _ hpass.workingSet_merged (by omega) (by omega)

/-- The last check passes an error on (41_tree_builder.md R115). -/
theorem checkRoot_of_error {r : TreeState × Option ErrCode} {e : ErrCode} (h : r.2 = some e) :
    (checkRoot r).2 = some e := by
  obtain ⟨t, o⟩ := r
  cases h
  rfl

/-- Without an active entry the first scan fails (41_tree_builder.md R122). -/
theorem treeBuild_of_no_leaf (cap : Nat) {dict : List DictEntry} (root : Nat)
    (h : (dict.filter (fun e => e.active)).length = 0) : (treeBuild cap dict root).2 = some .treeBuildFailure := by
  rw [treeBuild, makeLeaves_pool, length_leavesFrom, h]
  exact checkRoot_of_error rfl

/-- A single leaf becomes the root, which must be no leaf (41_tree_builder.md R123). -/
theorem treeBuild_of_one_leaf (cap : Nat) {dict : List DictEntry} (root : Nat)
    (h : (dict.filter (fun e => e.active)).length = 1) : (treeBuild cap dict root).2 = some .treeBuildFailure := by
  have hset := workingSet_makeLeaves dict root
  rw [h] at hset
  obtain ⟨a, hin, hloop⟩ := hset.mergeLoop_one cap
  obtain ⟨w, d, hleaf⟩ := nodeAt_leavesFrom_leaf (hset.lt hin)
  rw [treeBuild, makeLeaves_pool, length_leavesFrom, h, hloop]
  simp [checkRoot, hleaf]

/-- Settles O37: no leaf and one leaf, and a loop that runs out of nodes. -/
theorem treeBuildErrors : Obligations.TreeBuildErrors := by
  intro cap dict root n
  refine ⟨fun hn => ?_, fun htwo hfits hroom => ?_⟩
  · rcases Nat.le_one_iff_eq_zero_or_eq_one.mp hn with hzero | hone
    · exact treeBuild_of_no_leaf cap root hzero
    · exact treeBuild_of_one_leaf cap root hone
  · have hlen : (makeLeaves dict root).pool.length = n := length_leavesFrom dict 0
    have hset := workingSet_makeLeaves dict root
    obtain ⟨m, hm⟩ : ∃ m, n = m + 1 := ⟨n - 1, by omega⟩
    rw [treeBuild, hlen, hm]
    exact checkRoot_of_error (mergeLoop_allocationFailure m _ (hm ▸ hset) (by omega) (by omega))

end Sys2Proof.Machine
end

section
/-! PROOFS. The tree a build of two leaves or more ends with: which nodes each merge takes, and what stays in the
working set (41_tree_builder.md R115 to R125). -/

namespace Sys2Proof.Machine

/-! ### The working set, node by node -/

theorem mem_removeNode_iff (t : TreeState) (a j : Nat) :
    (removeNode t a).inset[j]? = some true ↔ t.inset[j]? = some true ∧ j ≠ a := by
  rw [removeNode_inset, List.getElem?_set]
  by_cases hja : a = j
  · simp [hja]
  · simp [hja, Ne.symm hja]

theorem merged_pool (t : TreeState) (a b : Nat) : (merged t a b).pool =
    t.pool ++ [.internal (nodeWeight (nodeAt t.pool a) + nodeWeight (nodeAt t.pool b)) a b] := rfl

theorem mem_merged_iff {t : TreeState} {n a b : Nat} (hpass : MergePass t n a b) (j : Nat) :
    (merged t a b).inset[j]? = some true ↔
      (t.inset[j]? = some true ∧ j ≠ a ∧ j ≠ b) ∨ j = t.pool.length := by
  have hlen : (removeNode (removeNode t a) b).inset.length = t.pool.length := hpass.removed.length
  rw [← and_assoc, ← mem_removeNode_iff t a j, ← mem_removeNode_iff (removeNode t a) b j, mergeNodes_inset]
  rcases Nat.lt_trichotomy j t.pool.length with hlt | rfl | hgt
  · rw [List.getElem?_append_left (by omega)]
    simp only [Nat.ne_of_lt hlt, or_false]
  · rw [← hlen]
    simp
  · rw [List.getElem?_eq_none (by rw [List.length_append, List.length_singleton, hlen]; omega),
      List.getElem?_eq_none (by omega)]
    simp only [Nat.ne_of_gt hgt, or_false]

/-- The last node of the working set is the only one. -/
theorem WorkingSet.eq_of_one {t : TreeState} (h : WorkingSet t 1) {a j : Nat} (ha : t.inset[a]? = some true)
    (hj : t.inset[j]? = some true) : j = a := by
  refine Decidable.byContradiction fun hne => ?_
  have hmem := List.mem_of_getElem? ((mem_removeNode_iff t a j).mpr ⟨hj, hne⟩)
  exact List.count_eq_zero.mp (h.removeNode ha).count hmem

/-! ### Two minima a merge -/

section
variable {t : TreeState} {n a b : Nat}

theorem MergePass.first_ne_second (h : MergePass t n a b) : a ≠ b :=
  (((mem_removeNode_iff t a b).mp h.secondIn).2).symm

theorem MergePass.first_scansBefore (h : MergePass t n a b) {j : Nat} (hj : t.inset[j]? = some true) (hne : j ≠ a) :
    ScansBefore t.pool a j :=
  (firstMin_of_scanMin h.first).scansBefore (h.workingSet.lt hj) hj hne

theorem MergePass.second_scansBefore (h : MergePass t n a b) {j : Nat} (hj : t.inset[j]? = some true) (hne : j ≠ a)
    (hne' : j ≠ b) : ScansBefore t.pool b j :=
  (firstMin_of_scanMin h.second).scansBefore (h.workingSet.lt hj) ((mem_removeNode_iff t a j).mpr ⟨hj, hne⟩) hne'

end

/-! ### The nodes already made stay as they are -/

/-- Node `k` merges the first two nodes not merged before it, the first on the left (41_tree_builder.md R117 to
R119). -/
def MergedAt (pool : List Node) (n k : Nat) : Prop :=
  ∃ l r, l < k ∧ r < k ∧ l ≠ r ∧
    nodeAt pool k = .internal (nodeWeight (nodeAt pool l) + nodeWeight (nodeAt pool r)) l r ∧
    UnmergedAt pool n k l ∧ UnmergedAt pool n k r ∧
    (∀ j, UnmergedAt pool n k j → j ≠ l → ScansBefore pool l j) ∧
    (∀ j, UnmergedAt pool n k j → j ≠ l → j ≠ r → ScansBefore pool r j)

section
variable {pool : List Node} {n k : Nat}

theorem scansBefore_append_iff {i j : Nat} (hi : i < pool.length) (hj : j < pool.length) (x : Node) :
    ScansBefore (pool ++ [x]) i j ↔ ScansBefore pool i j := by
  rw [ScansBefore, nodeAt_append_left hi, nodeAt_append_left hj, ScansBefore]

theorem unmergedAt_append_iff (hk : k ≤ pool.length) (x : Node) (j : Nat) :
    UnmergedAt (pool ++ [x]) n k j ↔ UnmergedAt pool n k j := by
  refine and_congr_right fun _ => forall_congr' fun m => ?_
  have hnode (hm : m < k) : nodeAt (pool ++ [x]) m = nodeAt pool m := nodeAt_append_left (by omega) x
  constructor
  · exact fun h w l r hn hm hi => h w l r hn hm (by rwa [hnode hm])
  · exact fun h w l r hn hm hi => h w l r hn hm (by rwa [← hnode hm])

/-- A node that merged the first two still does when one more is made. -/
theorem MergedAt.append (h : MergedAt pool n k) (hk : k < pool.length) (x : Node) : MergedAt (pool ++ [x]) n k := by
  obtain ⟨l, r, hl, hr, hne, hnode, hul, hur, hfirst, hsecond⟩ := h
  have hunmerged := unmergedAt_append_iff (n := n) (Nat.le_of_lt hk) x
  refine ⟨l, r, hl, hr, hne, ?_, (hunmerged l).mpr hul, (hunmerged r).mpr hur, fun j hj hjl => ?_,
    fun j hj hjl hjr => ?_⟩
  · rw [nodeAt_append_left hk, nodeAt_append_left (Nat.lt_trans hl hk), nodeAt_append_left (Nat.lt_trans hr hk), hnode]
  · rw [scansBefore_append_iff (Nat.lt_trans hl hk) (Nat.lt_trans hj.1 hk)]
    exact hfirst j ((hunmerged j).mp hj) hjl
  · rw [scansBefore_append_iff (Nat.lt_trans hr hk) (Nat.lt_trans hj.1 hk)]
    exact hsecond j ((hunmerged j).mp hj) hjl hjr

/-- The newest node has not been merged: no child comes behind its parent. -/
theorem PoolStands.unmergedAt_last (h : PoolStands pool) (hk : k + 1 = pool.length) :
    UnmergedAt pool n pool.length k := by
  refine ⟨by omega, fun m w l r _ hm hi => ?_⟩
  have := h.children m w l r hi
  omega

/-- What a merge leaves unmerged: the new node, and the nodes it does not take (41_tree_builder.md R118, R119). -/
theorem PoolStands.unmergedAt_append_internal_iff {w : Word} {a b : Nat}
    (h : PoolStands (pool ++ [.internal w a b])) (hn : n ≤ pool.length) (j : Nat) :
    UnmergedAt (pool ++ [.internal w a b]) n (pool.length + 1) j ↔
      (UnmergedAt pool n pool.length j ∧ j ≠ a ∧ j ≠ b) ∨ j = pool.length := by
  have hself := nodeAt_append_self pool (.internal w a b)
  rw [← unmergedAt_append_iff (Nat.le_refl pool.length) (.internal w a b)]
  constructor
  · rintro ⟨hlt, hnot⟩
    rcases Nat.lt_succ_iff_lt_or_eq.mp hlt with hold | heq
    · exact .inl ⟨⟨hold, fun m w' l r hm hmk => hnot m w' l r hm (by omega)⟩, hnot _ w a b hn (by omega) hself⟩
    · exact .inr heq
  · rintro (⟨⟨hlt, hnot⟩, hja, hjb⟩ | rfl)
    · refine ⟨by omega, fun m w' l r hm hmk hi => ?_⟩
      rcases Nat.lt_succ_iff_lt_or_eq.mp hmk with hold | rfl
      · exact hnot m w' l r hm hold hi
      · rw [hself] at hi
        cases hi
        exact ⟨hja, hjb⟩
    · simpa using h.unmergedAt_last (n := n) (k := pool.length) (by simp)

end

/-! ### Every build of two leaves or more -/

/-- What the merges of some leaves have made so far: the leaves stand first, every later node merges the first two
nodes not merged before it, and the working set holds the nodes not merged yet. -/
structure MergesOf (leaves : List Node) (t : TreeState) : Prop where
  start : leaves <+: t.pool
  merges : ∀ k, leaves.length ≤ k → k < t.pool.length → MergedAt t.pool leaves.length k
  unmerged : ∀ j, t.inset[j]? = some true ↔ UnmergedAt t.pool leaves.length t.pool.length j

theorem mergesOf_makeLeaves (dict : List DictEntry) (root : Nat) :
    MergesOf (leavesFrom 0 dict) (makeLeaves dict root) where
  start := List.prefix_refl _
  merges k hk hlt := absurd hlt (Nat.not_lt.mpr hk)
  unmerged j := by
    rw [makeLeaves_inset, makeLeaves_pool, List.getElem?_replicate, Option.ite_none_right_eq_some]
    exact and_congr_right fun _ => iff_of_true rfl fun m _ _ _ hm hlt => absurd hlt (Nat.not_lt.mpr hm)

/-- The node a pass makes merges the first two nodes not merged before it. -/
theorem MergesOf.mergedAt_new {leaves : List Node} {t : TreeState} {n a b : Nat} (h : MergesOf leaves t)
    (hpass : MergePass t n a b) : MergedAt (merged t a b).pool leaves.length t.pool.length := by
  rw [merged_pool]
  have hnew (x : Node) (j : Nat) :
      UnmergedAt (t.pool ++ [x]) leaves.length t.pool.length j ↔ t.inset[j]? = some true :=
    (unmergedAt_append_iff (Nat.le_refl _) x j).trans (h.unmerged j).symm
  refine ⟨a, b, hpass.first_lt, hpass.second_lt, hpass.first_ne_second, ?_, (hnew _ a).mpr hpass.firstIn,
    (hnew _ b).mpr ((mem_removeNode_iff t a b).mp hpass.secondIn).1, fun j hj hja => ?_, fun j hj hja hjb => ?_⟩
  · rw [nodeAt_append_self, nodeAt_append_left hpass.first_lt, nodeAt_append_left hpass.second_lt]
  · rw [scansBefore_append_iff hpass.first_lt hj.1]
    exact hpass.first_scansBefore ((hnew _ j).mp hj) hja
  · rw [scansBefore_append_iff hpass.second_lt hj.1]
    exact hpass.second_scansBefore ((hnew _ j).mp hj) hja hjb

theorem MergesOf.merge {leaves : List Node} {t : TreeState} {n a b : Nat} (h : MergesOf leaves t)
    (hpass : MergePass t n a b) (hstands : PoolStands t.pool) : MergesOf leaves (merged t a b) where
  start := h.start.trans (List.prefix_append _ _)
  merges k hk hlt := by
    rw [merged_pool, List.length_append, List.length_singleton] at hlt
    rcases Nat.lt_succ_iff_lt_or_eq.mp hlt with hold | rfl
    · exact (h.merges k hk hold).append hold _
    · exact h.mergedAt_new hpass
  unmerged j := by
    have hgrown := hstands.append_internal hpass.first_lt hpass.second_lt
    rw [mem_merged_iff hpass, h.unmerged j, merged_pool, List.length_append, List.length_singleton,
      (hgrown _).unmergedAt_append_internal_iff h.start.length_le]

/-- A rule for the builder: with two leaves or more and room for their merges it raises nothing, and what every merge
keeps holds when one node is left, which becomes the root (41_tree_builder.md R115, R121). -/
theorem treeBuild_ends {cap : Nat} {dict : List DictEntry} (root : Nat) {P : TreeState → Prop}
    (htwo : 2 ≤ (dict.filter (fun e => e.active)).length)
    (hcap : 2 * (dict.filter (fun e => e.active)).length - 1 ≤ cap) (hstart : P (makeLeaves dict root))
    (hmerge : ∀ t n a b, MergePass t n a b → PoolStands t.pool → P t → P (merged t a b)) :
    ∃ t a, WorkingSet t 1 ∧ PoolStands t.pool ∧ P t ∧
      t.pool.length = 2 * (dict.filter (fun e => e.active)).length - 1 ∧ t.inset[a]? = some true ∧
      treeBuild cap dict root = ({ removeNode t a with root := a }, none) := by
  have hset := workingSet_makeLeaves dict root
  have hlen : (makeLeaves dict root).pool.length = (dict.filter (fun e => e.active)).length := length_leavesFrom dict 0
  generalize (dict.filter (fun e => e.active)).length = n at *
  obtain ⟨m, rfl⟩ : ∃ m, n = m + 1 := ⟨n - 1, by omega⟩
  have hgrows : TreeGrows (makeLeaves dict root) :=
    ⟨leavesFrom_stands dict, fun hone => by rw [hset.count] at hone; omega⟩
  obtain ⟨t, a, hone, ⟨hgrown, hP⟩, hlen', hin, hloop⟩ :=
    mergeLoop_ends (cap := cap) (P := fun t => TreeGrows t ∧ P t)
      (fun t n a b hpass ⟨hgrown, hP⟩ => ⟨hgrown.merge hpass, hmerge t n a b hpass hgrown.stands hP⟩)
      m _ hset (by omega) ⟨hgrows, hstart⟩
  obtain ⟨w, l, r, hroot⟩ := hgrown.lastInternal hone.count a hin
  refine ⟨t, a, hone, hgrown.stands, hP, by omega, hin, ?_⟩
  rw [treeBuild, hlen, hloop]
  simp [checkRoot, hroot]

/-- Settles O35: the merges made, when the node made last is the only one left. -/
theorem treeBuildMergesAllLeaves : Obligations.TreeBuildMergesAllLeaves := by
  intro cap dict root n htwo hcap
  obtain ⟨t, a, hone, hstands, hmerges, hlen, hin, hbuild⟩ :=
    treeBuild_ends root htwo hcap (mergesOf_makeLeaves dict root) fun _ _ _ _ hpass hstands h => h.merge hpass hstands
  have hleaves : (leavesFrom 0 dict).length = n := length_leavesFrom dict 0
  have hlast := hstands.unmergedAt_last (n := (leavesFrom 0 dict).length) (k := 2 * n - 2) (by omega)
  obtain rfl := hone.eq_of_one hin ((hmerges.unmerged _).mpr hlast)
  have hempty : true ∉ (removeNode t (2 * n - 2)).inset := List.count_eq_zero.mp (hone.removeNode hin).count
  refine ⟨_, hbuild, hlen, rfl, ?_, fun b hb => ?_, fun k hk hlt => ?_⟩
  · rw [← hleaves]
    exact (List.prefix_iff_eq_take.mp hmerges.start).symm
  · exact Bool.eq_false_iff.mpr fun htrue => hempty (htrue ▸ hb)
  · rw [← hleaves] at hk
    have hmerged := hmerges.merges k hk (by omega)
    rwa [hleaves] at hmerged

end Sys2Proof.Machine
end

section
/-! PROOFS. The weights of a tree: what the working set weighs, that no merge changes it, and that no sum wraps for
the dictionary of a key text (41_tree_builder.md R119, R120). -/

namespace Sys2Proof.Machine

/-! ### What a key text can store -/

/-- A custom entry has the weight byte and the expression of a valid line (40_install.md R103). -/
theorem mem_addLines_dict {p : Params} {t : List Byte} {e : DictEntry} (he : e ∈ (addLines p t).dict) :
    ∃ line l, keyLine line = some l ∧ e.weight = l.weight.setWidth 32 ∧ e.expr = l.expr := by
  have hmem := List.mem_map_of_mem (f := fun e : DictEntry => (e.weight, e.expr, e.custom)) he
  rw [(addLines_stored p t).entries] at hmem
  obtain ⟨l, hl, heq⟩ := List.mem_map.mp hmem
  obtain ⟨line, -, hline⟩ := List.mem_filterMap.mp (List.mem_of_mem_take hl)
  simp only [Prod.mk.injEq] at heq
  exact ⟨line, l, hline, heq.1.symm, heq.2.1.symm⟩

theorem byteWeight_le (p : Params) (b : Byte) : (byteWeight p b).toNat ≤ 10000 := by
  unfold byteWeight
  split
  · decide
  · split
    · decide
    · split <;> decide

/-- The active entries of a list of entries weigh at most the greatest weight for each entry. -/
theorem sum_activeWeights_le {c : Nat} : ∀ {d : List DictEntry}, (∀ e ∈ d, e.weight.toNat ≤ c) →
    ((d.filter (fun e => e.active)).map (fun e => e.weight.toNat)).sum ≤ c * d.length
  | [], _ => Nat.zero_le _
  | e :: es, h => by
    have he := h e List.mem_cons_self
    have ih := sum_activeWeights_le fun f hf => h f (List.mem_cons_of_mem e hf)
    rw [List.length_cons, Nat.mul_succ]
    cases hactive : e.active with
    | false =>
      have hd : (e :: es).filter (fun e => e.active) = es.filter (fun e => e.active) :=
        List.filter_cons_of_neg (ne_true_of_eq_false hactive)
      rw [hd]
      omega
    | true =>
      have hd : (e :: es).filter (fun e => e.active) = e :: es.filter (fun e => e.active) :=
        List.filter_cons_of_pos hactive
      rw [hd, List.map_cons, List.sum_cons]
      omega

/-- All the leaves of a key text together weigh at most 255 for each custom entry and 10000 for each byte entry
(41_tree_builder.md R120). -/
theorem sum_dictBuild_activeWeights_le (p : Params) (t : List Byte) :
    (((dictBuild p t).dict.filter (fun e => e.active)).map (fun e => e.weight.toNat)).sum ≤
      255 * p.customMax + 10000 * 256 := by
  have hcustom := sum_activeWeights_le (d := (addLines p t).dict) (c := 255) fun e he => by
    obtain ⟨line, l, -, hw, -⟩ := mem_addLines_dict he
    rw [hw, BitVec.toNat_setWidth]
    omega
  have hbytes := sum_activeWeights_le (d := allBytes.map (byteEntry p (addLines p t).dict)) (c := 10000) fun e he => by
    obtain ⟨b, -, rfl⟩ := List.mem_map.mp he
    exact byteWeight_le p b
  have hcount : (addLines p t).dict.length ≤ p.customMax :=
    Nat.le_trans (Nat.le_of_eq (customCountOf_eq p t)) (Nat.min_le_right _ _)
  have hbyteCount : (allBytes.map (byteEntry p (addLines p t).dict)).length = 256 := by simp [allBytes, byteEntries]
  rw [hbyteCount] at hbytes
  rw [dictBuild, registerBytes, List.filter_append, List.map_append, List.sum_append_nat]
  exact Nat.add_le_add (Nat.le_trans hcustom (Nat.mul_le_mul_left 255 hcount)) hbytes

/-! ### The weight of the working set -/

@[simp] theorem nodeWeight_leaf (w : Word) (d : Nat) : nodeWeight (.leaf w d) = w := rfl

@[simp] theorem nodeWeight_internal (w : Word) (l r : Nat) : nodeWeight (.internal w l r) = w := rfl

/-- The weight of node `i` as a number. -/
def weightAt (pool : List Node) (i : Nat) : Nat := (nodeWeight (nodeAt pool i)).toNat

theorem weightAt_append_left {pool : List Node} {i : Nat} (h : i < pool.length) (n : Node) :
    weightAt (pool ++ [n]) i = weightAt pool i := by
  rw [weightAt, nodeAt_append_left h, weightAt]

/-- What the nodes in the working set weigh together. -/
def workingWeight : List Node → Bits → Nat
  | n :: ns, b :: bs => (if b then (nodeWeight n).toNat else 0) + workingWeight ns bs
  | _, _ => 0

/-- A node that leaves the working set takes its weight with it. -/
theorem workingWeight_set {a : Nat} : ∀ {pool : List Node} {inset : Bits}, a < pool.length →
    inset[a]? = some true → workingWeight pool (inset.set a false) + weightAt pool a = workingWeight pool inset
  | [], _, hlt, _ => absurd hlt (Nat.not_lt_zero a)
  | _ :: _, [], _, hmem => by cases hmem
  | n :: ns, b :: bs, hlt, hmem => by
    cases a with
    | zero =>
      obtain rfl : b = true := Option.some.inj hmem
      rw [List.set_cons_zero, workingWeight, workingWeight, weightAt, nodeAt_cons_zero, if_neg Bool.false_ne_true,
        if_pos rfl]
      omega
    | succ a =>
      have ih := workingWeight_set (pool := ns) (inset := bs) (Nat.lt_of_succ_lt_succ hlt) hmem
      rw [weightAt] at ih
      rw [List.set_cons_succ, workingWeight, workingWeight, weightAt, nodeAt_cons_succ]
      omega

/-- A node that joins the working set adds its weight. -/
theorem workingWeight_append (n : Node) : ∀ {pool : List Node} {inset : Bits}, inset.length = pool.length →
    workingWeight (pool ++ [n]) (inset ++ [true]) = workingWeight pool inset + (nodeWeight n).toNat
  | [], [], _ => Nat.add_comm _ _
  | m :: ns, b :: bs, h => by
    have ih := workingWeight_append n (pool := ns) (inset := bs) (Nat.succ.inj h)
    rw [List.cons_append, List.cons_append, workingWeight, workingWeight, ih, Nat.add_assoc]

/-- The whole pool weighs the sum of its nodes' weights. -/
theorem workingWeight_all : ∀ pool : List Node,
    workingWeight pool (List.replicate pool.length true) = (pool.map (fun n => (nodeWeight n).toNat)).sum
  | [] => rfl
  | n :: ns => by
    rw [List.length_cons, List.replicate_succ, workingWeight, if_pos rfl, workingWeight_all ns, List.map_cons,
      List.sum_cons]

theorem workingWeight_empty : ∀ {pool : List Node} {inset : Bits}, true ∉ inset → workingWeight pool inset = 0
  | [], _, _ => rfl
  | _ :: _, [], _ => rfl
  | n :: ns, b :: bs, h => by
    rw [List.mem_cons, not_or] at h
    obtain ⟨hb, hbs⟩ := h
    rw [workingWeight, if_neg (Ne.symm hb), workingWeight_empty hbs]

theorem map_nodeWeight_leavesFrom (dict : List DictEntry) (i : Nat) :
    (leavesFrom i dict).map (fun n => (nodeWeight n).toNat) =
      (dict.filter (fun e => e.active)).map (fun e => e.weight.toNat) := by
  induction dict generalizing i with
  | nil => rfl
  | cons e es ih => cases he : e.active <;> simp [leavesFrom, he, ih]

/-! ### What every merge keeps -/

/-- The working set weighs what all the leaves weigh, and every internal node weighs what its children weigh
(41_tree_builder.md R119, R120). -/
structure SumsExact (total : Nat) (t : TreeState) : Prop where
  total : workingWeight t.pool t.inset = total
  children : ∀ k w l r, nodeAt t.pool k = .internal w l r → w.toNat = weightAt t.pool l + weightAt t.pool r

/-- At first all the leaves are in the working set (41_tree_builder.md R116). -/
theorem sumsExact_makeLeaves (dict : List DictEntry) (root : Nat) :
    SumsExact ((dict.filter (fun e => e.active)).map (fun e => e.weight.toNat)).sum (makeLeaves dict root) where
  total := by
    rw [makeLeaves_pool, makeLeaves_inset, workingWeight_all, map_nodeWeight_leavesFrom]
  children k w l r hk := by
    rw [makeLeaves_pool] at hk
    obtain ⟨w', d, hleaf⟩ := nodeAt_leavesFrom_leaf (nodeAt_ne_empty_lt (by rw [hk]; nofun))
    cases hleaf.symm.trans hk

/-- What the working set weighs without the two nodes a pass takes. -/
theorem MergePass.workingWeight_removed {t : TreeState} {n a b : Nat} (h : MergePass t n a b) :
    workingWeight t.pool (removeNode (removeNode t a) b).inset + weightAt t.pool b + weightAt t.pool a =
      workingWeight t.pool t.inset := by
  rw [removeNode_inset (removeNode t a) b, workingWeight_set h.second_lt h.secondIn, removeNode_inset,
    workingWeight_set h.first_lt h.firstIn]

/-- The weights of two merged nodes are part of what the working set weighs, so their sum does not wrap
(41_tree_builder.md R120). -/
theorem SumsExact.merge {total : Nat} {t : TreeState} {n a b : Nat} (h : SumsExact total t) (hpass : MergePass t n a b)
    (hstands : PoolStands t.pool) (hfits : total < 2 ^ 32) : SumsExact total (merged t a b) := by
  have htotal := hpass.workingWeight_removed.trans h.total
  have hsum : (nodeWeight (nodeAt t.pool a) + nodeWeight (nodeAt t.pool b)).toNat =
      weightAt t.pool a + weightAt t.pool b := by
    rw [BitVec.toNat_add]
    exact Nat.mod_eq_of_lt (show weightAt t.pool a + weightAt t.pool b < 2 ^ 32 by omega)
  constructor
  · have hlen : (removeNode (removeNode t a) b).inset.length = t.pool.length := hpass.removed.length
    rw [merged_pool, mergeNodes_inset, workingWeight_append _ hlen, nodeWeight_internal, hsum]
    omega
  · intro k w l r hk
    have hlt : k < (merged t a b).pool.length := nodeAt_ne_empty_lt (by rw [hk]; nofun)
    rw [merged_pool] at hk hlt ⊢
    rw [List.length_append, List.length_singleton] at hlt
    rcases Nat.lt_succ_iff_lt_or_eq.mp hlt with hold | rfl
    · rw [nodeAt_append_left hold] at hk
      obtain ⟨hl, hr⟩ := hstands.children k w l r hk
      rw [weightAt_append_left (Nat.lt_trans hl hold), weightAt_append_left (Nat.lt_trans hr hold),
        h.children k w l r hk]
    · rw [nodeAt_append_self] at hk
      cases hk
      rw [weightAt_append_left hpass.first_lt, weightAt_append_left hpass.second_lt, hsum]

/-- The node left alone in the working set weighs what all the leaves weigh. -/
theorem SumsExact.weight_last {total : Nat} {t : TreeState} {a : Nat} (h : SumsExact total t) (hone : WorkingSet t 1)
    (ha : t.inset[a]? = some true) : weightAt t.pool a = total := by
  have hempty : true ∉ t.inset.set a false := List.count_eq_zero.mp (hone.removeNode ha).count
  rw [← h.total, ← workingWeight_set (hone.lt ha) ha, workingWeight_empty hempty, Nat.zero_add]

/-- Settles O38: the leaves of a key text weigh less than 2 ^ 32 together, and every merge keeps the exact sums. -/
theorem treeWeightsNeverWrap : Obligations.TreeWeightsNeverWrap := by
  intro p t root hp d tree
  have hbound := sum_dictBuild_activeWeights_le p t
  have hcustom : p.customMax ≤ 255 := by
    simp only [paramsInRange, Bool.and_eq_true, decide_eq_true_eq] at hp
    omega
  obtain ⟨t', a, hone, -, hsums, -, hin, hbuild⟩ :=
    treeBuild_ends root (Nat.le_trans (by decide) (le_activeEntries p t)) (dictBuild_fits p t)
      (sumsExact_makeLeaves (dictBuild p t).dict root) fun _ _ _ _ hpass hstands h => h.merge hpass hstands (by omega)
  have htree : tree = { removeNode t' a with root := a } := congrArg Prod.fst hbuild
  rw [htree]
  exact ⟨hsums.weight_last hone hin, hbound, fun k l r w hk => hsums.children k w l r hk⟩

end Sys2Proof.Machine
end

section
/-! PROOFS. The tables of a successful install agree: what a visit that records its entries says of the paths below its
node, and which expressions they carry (41_tree_builder.md R123 to R125, 42_code_table.md R130 to R133). -/

namespace Sys2Proof.Machine

/-! ### Paths below a visited node -/

section
variable {pool : List Node} {dict : List DictEntry}

theorem reach_cons {n m : Nat} {b : Bool} (h : childOf (nodeAt pool n) b = some m) (path : Bits) :
    reach pool n (b :: path) = reach pool m path := by
  simp [reach, h]

/-- A visited node that is not a leaf is an internal node. -/
theorem visit_ok_cases {n room : Nat} {path : Bits} {ct : List CodeEntry} (h : visit pool dict n path room = .ok ct) :
    (∃ w d, nodeAt pool n = .leaf w d ∧ ct = [⟨(dictAt dict d).expr, path⟩]) ∨
      ∃ w l r left ls rs, nodeAt pool n = .internal w l r ∧ room = left + 1 ∧
        visit pool dict l (path ++ [false]) left = .ok ls ∧ visit pool dict r (path ++ [true]) left = .ok rs ∧
        ct = ls ++ rs := by
  cases hn : nodeAt pool n with
  | empty => exact absurd h (by simp [visit_of_empty room hn])
  | leaf w d => exact .inl ⟨w, d, rfl, by simpa [visit_of_leaf room hn, eq_comm] using h⟩
  | internal w l r =>
    obtain ⟨left, ls, rs, hvisit⟩ := visit_of_internal_ok hn h
    exact .inr ⟨w, l, r, left, ls, rs, rfl, hvisit⟩

/-- An internal node below a visited one is less deep than the room of the visit (42_code_table.md R133). -/
theorem length_lt_of_visit {i : Nat} (hi : ∃ w l r, nodeAt pool i = .internal w l r) : ∀ (q : Bits) {n room : Nat}
    {path : Bits} {ct : List CodeEntry},
    visit pool dict n path room = .ok ct → reach pool n q = some i → q.length < room
  | [], n, room, path, ct, h, hreach => by
    cases hreach
    obtain ⟨w, l, r, hi⟩ := hi
    obtain ⟨left, -, -, rfl, -⟩ := visit_of_internal_ok hi h
    exact Nat.zero_lt_succ _
  | b :: q, n, room, path, ct, h, hreach => by
    rcases visit_ok_cases h with ⟨w, d, hn, -⟩ | ⟨w, l, r, left, ls, rs, hn, rfl, hl, hr, -⟩
    · simp [reach, hn, childOf] at hreach
    · cases b with
      | false =>
        exact Nat.succ_lt_succ (length_lt_of_visit hi q hl ((reach_cons (by rw [hn]; rfl) q).symm.trans hreach))
      | true =>
        exact Nat.succ_lt_succ (length_lt_of_visit hi q hr ((reach_cons (by rw [hn]; rfl) q).symm.trans hreach))

/-- Below node `n` the path `q` leads to a leaf with this expression. -/
def LeadsToLeaf (pool : List Node) (dict : List DictEntry) (n : Nat) (q : Bits) (expr : List Byte) : Prop :=
  ∃ i w d, reach pool n q = some i ∧ nodeAt pool i = .leaf w d ∧ (dictAt dict d).expr = expr

/-- A visit records entries whose codes go on from its path to a leaf of their expression (42_code_table.md R130,
R131). -/
theorem leadsToLeaf_of_visit {e : CodeEntry} {n room : Nat} {path : Bits} {ct : List CodeEntry}
    (h : visit pool dict n path room = .ok ct) (he : e ∈ ct) :
    ∃ q, e.code = path ++ q ∧ q.length ≤ room ∧ LeadsToLeaf pool dict n q e.expr := by
  induction room using Nat.strongRecOn generalizing n path ct with
  | ind room ih =>
    rcases visit_ok_cases h with ⟨w, d, hn, rfl⟩ | ⟨w, l, r, left, ls, rs, hn, rfl, hl, hr, rfl⟩
    · obtain rfl := List.mem_singleton.mp he
      exact ⟨[], by simp, Nat.zero_le _, n, w, d, rfl, hn, rfl⟩
    · have hchild {b : Bool} {m : Nat} {sub : List CodeEntry} (hm : childOf (nodeAt pool n) b = some m)
          (hv : visit pool dict m (path ++ [b]) left = .ok sub) (hsub : e ∈ sub) :
          ∃ q, e.code = path ++ q ∧ q.length ≤ left + 1 ∧ LeadsToLeaf pool dict n q e.expr := by
        obtain ⟨q, hcode, hlen, hleads⟩ := ih left (Nat.lt_succ_self _) hv hsub
        refine ⟨b :: q, by simpa using hcode, Nat.succ_le_succ hlen, ?_⟩
        rwa [LeadsToLeaf, reach_cons hm]
      rcases List.mem_append.mp he with hleft | hright
      · exact hchild (by rw [hn]; rfl) hl hleft
      · exact hchild (by rw [hn]; rfl) hr hright

end

/-! ### The expressions at the leaves -/

/-- Every stored expression has 1 to 15 bytes (10_state.md R43). -/
theorem length_expr_of_mem_dictBuild {p : Params} {t : List Byte} {e : DictEntry} (he : e ∈ (dictBuild p t).dict) :
    1 ≤ e.expr.length ∧ e.expr.length ≤ maxExprLen := by
  rcases List.mem_append.mp he with hcustom | hbyte
  · obtain ⟨line, l, hline, -, hexpr⟩ := mem_addLines_dict hcustom
    obtain ⟨-, hlen, hpos, -⟩ := keyLine_fields hline
    rw [hexpr]
    exact ⟨hpos, Nat.le_trans (Nat.le_of_eq hlen) (Nat.min_le_right _ _)⟩
  · obtain ⟨b, -, rfl⟩ := List.mem_map.mp hbyte
    exact ⟨Nat.le_refl 1, (by decide : 1 ≤ maxExprLen)⟩

/-- Every leaf of a tree names an active entry of its dictionary (41_tree_builder.md R116, R119). -/
theorem treeBuild_leaf {cap : Nat} {dict : List DictEntry} {root : Nat} {tree : TreeState}
    (htwo : 2 ≤ (dict.filter (fun e => e.active)).length)
    (hcap : 2 * (dict.filter (fun e => e.active)).length - 1 ≤ cap)
    (htree : treeBuild cap dict root = (tree, none)) {i : Nat} {w : Word} {d : Nat}
    (hi : nodeAt tree.pool i = .leaf w d) : ∃ e, dict[d]? = some e ∧ e.active = true ∧ e.weight = w := by
  obtain ⟨tree', htree', hlen, -, hleaves, -, hmerged⟩ := treeBuildMergesAllLeaves cap dict root htwo hcap
  obtain rfl : tree' = tree := by simpa using htree'.symm.trans htree
  have hlt : i < tree'.pool.length := nodeAt_ne_empty_lt (by rw [hi]; nofun)
  by_cases hn : i < (dict.filter (fun e => e.active)).length
  · have hleaf : (leavesFrom 0 dict)[i]? = some (.leaf w d) := by
      rw [← hleaves, List.getElem?_take_of_lt hn, List.getElem?_eq_getElem hlt, ← hi, nodeAt,
        List.getElem?_eq_getElem hlt, Option.getD_some]
    obtain ⟨-, hentry, -⟩ := leavesAreTheActiveEntries dict
    obtain ⟨e, he, hactive, hw, -⟩ := hentry i w d hleaf
    exact ⟨e, he, hactive, hw⟩
  · obtain ⟨l, r, -, -, -, hinternal, -⟩ := hmerged i (by omega) (by omega)
    cases hinternal.symm.trans hi

theorem dictAt_of_getElem? {dict : List DictEntry} {i : Nat} {e : DictEntry} (h : dict[i]? = some e) :
    dictAt dict i = e := by
  rw [dictAt, h, Option.getD_some]

/-! ### The tables -/

/-- A tree of a key text's dictionary and the codes generated from it agree. -/
theorem tablesAgree_of_codeGen {p : Params} {t : List Byte} {root : Nat} {k : KeyTables} {tree : TreeState}
    (htree : treeBuild (nodeCap p) (dictBuild p t).dict root = (tree, none))
    (hdict : k.dict = (dictBuild p t).dict) (hpool : k.pool = tree.pool) (hroot : k.root = tree.root)
    (hcode : codeGen k.pool k.dict k.root = .ok k.ct) : TablesAgree k := by
  obtain ⟨tree', htree', hstands, hinternal⟩ := treeBuild_dictBuild p t root
  obtain rfl : tree' = tree := by simpa using htree'.symm.trans htree
  rw [← hpool] at hstands
  rw [← hpool, ← hroot] at hinternal
  refine ⟨hinternal, fun i w l r hi => ?_, fun path i w l r hreach hi => ?_, fun e he => ?_, fun e he => ?_⟩
  · obtain ⟨hl, hr⟩ := hstands.children i w l r hi
    exact ⟨hl, hr, hstands.child_ne_empty hi⟩
  · exact length_lt_of_visit ⟨w, l, r, hi⟩ path hcode hreach
  · obtain ⟨q, hq, hlen, i, w, d, hreach, hi, hexpr⟩ := leadsToLeaf_of_visit hcode he
    obtain rfl : e.code = q := hq
    obtain ⟨f, hf, -⟩ := treeBuild_leaf (Nat.le_trans (by decide) (le_activeEntries p t)) (dictBuild_fits p t) htree
      (hpool ▸ hi)
    have hsize := length_expr_of_mem_dictBuild (List.mem_of_getElem? hf)
    rw [hdict, dictAt_of_getElem? hf] at hexpr
    rw [← hexpr]
    refine ⟨List.length_pos_iff.mpr fun hnil => ?_, hlen, hsize⟩
    rw [hnil] at hreach
    cases hreach
    obtain ⟨w', l, r, hnode⟩ := hinternal
    cases hnode.symm.trans hi
  · obtain ⟨q, hq, -, hleads⟩ := leadsToLeaf_of_visit hcode he
    obtain rfl : e.code = q := hq
    exact hleads

/-- Settles O25: a VALID key has the tree and the codes of its text's dictionary. -/
theorem installedTablesAgree : Obligations.InstalledTablesAgree := by
  intro p t implicit k hvalid
  rcases installKey_cases p t implicit k with ⟨e, -, hfailed, -, -⟩ | ⟨tree, ct, htree, hcode, -, hkey⟩
  · cases hfailed.symm.trans hvalid
  · rw [hkey]
    exact tablesAgree_of_codeGen htree rfl rfl rfl hcode

end Sys2Proof.Machine
end

section
/-! PROOFS. The tree that stands below a pool node, the codes the generator records for it, and what holds of the codes
of every tree (42_code_table.md R130 to R137). -/

namespace Sys2Proof.Machine

/-! ### Codes that branch -/

/-- The code of the first entry branches to 0 where that of the second branches to 1. -/
def BranchesBefore (e f : CodeEntry) : Prop := ∃ pre x y, e.code = pre ++ false :: x ∧ f.code = pre ++ true :: y

theorem BranchesBefore.not_prefix {e f : CodeEntry} (h : BranchesBefore e f) :
    ¬ e.code <+: f.code ∧ ¬ f.code <+: e.code := by
  obtain ⟨pre, x, y, he, hf⟩ := h
  simp [he, hf, List.prefix_append_right_inj, List.cons_prefix_cons]

/-! ### Trees in a pool -/

/-- A binary tree with a pool node at each of its ends. -/
inductive CodeTree where
  | leaf (node : Node)
  | branch (left right : CodeTree)

/-- The expression a leaf stands for; only a leaf of the pool has one. -/
def leafExpr (dict : List DictEntry) : Node → List Byte
  | .leaf _ dix => (dictAt dict dix).expr
  | .empty | .internal _ _ _ => []

namespace CodeTree

/-- The nodes at the ends of the tree, from left to right. -/
def leaves : CodeTree → List Node
  | leaf node => [node]
  | branch left right => left.leaves ++ right.leaves

/-- The pool holds this tree at node `n`. -/
def StandsAt (pool : List Node) : CodeTree → Nat → Prop
  | leaf node, n => nodeAt pool n = node ∧ ∃ w d, node = .leaf w d
  | branch left right, n => ∃ w l r, nodeAt pool n = .internal w l r ∧ left.StandsAt pool l ∧ right.StandsAt pool r

/-- The entries of the tree's leaves from left to right, each with its path behind `path` as its code
(42_code_table.md R131, R132). -/
def codes (dict : List DictEntry) : CodeTree → Bits → List CodeEntry
  | leaf node, path => [⟨leafExpr dict node, path⟩]
  | branch left right, path => left.codes dict (path ++ [false]) ++ right.codes dict (path ++ [true])

/-- A tree still stands when a node joins the pool. -/
theorem StandsAt.append {pool : List Node} (x : Node) : ∀ {tree : CodeTree} {n : Nat},
    tree.StandsAt pool n → tree.StandsAt (pool ++ [x]) n
  | leaf _, n, ⟨hn, w, d, hleaf⟩ =>
    ⟨by rw [nodeAt_append_left (nodeAt_ne_empty_lt (by rw [hn, hleaf]; nofun)), hn], w, d, hleaf⟩
  | branch _ _, n, ⟨w, l, r, hn, hleft, hright⟩ =>
    ⟨w, l, r, by rw [nodeAt_append_left (nodeAt_ne_empty_lt (by rw [hn]; nofun)), hn], hleft.append x, hright.append x⟩

/-- What a visit of the tree records, if it records anything, are the tree's codes (42_code_table.md R130). -/
theorem StandsAt.codes_of_visit {pool : List Node} {dict : List DictEntry} {tree : CodeTree} {n room : Nat}
    {path : Bits} {ct : List CodeEntry} (h : tree.StandsAt pool n) (hvisit : visit pool dict n path room = .ok ct) :
    ct = tree.codes dict path := by
  induction tree generalizing n room path ct with
  | leaf node =>
    obtain ⟨hn, w, d, rfl⟩ := h
    rw [visit_of_leaf room hn] at hvisit
    exact (Except.ok.inj hvisit).symm
  | branch left right ihl ihr =>
    obtain ⟨w, l, r, hn, hleft, hright⟩ := h
    obtain ⟨_, ls, rs, -, hl, hr, rfl⟩ := visit_of_internal_ok hn hvisit
    rw [ihl hleft hl, ihr hright hr, codes]

/-! ### The codes of a tree -/

variable (dict : List DictEntry)

theorem map_expr_codes (tree : CodeTree) (path : Bits) :
    (tree.codes dict path).map CodeEntry.expr = tree.leaves.map (leafExpr dict) := by
  induction tree generalizing path with
  | leaf node => rfl
  | branch left right ihl ihr => rw [codes, leaves, List.map_append, List.map_append, ihl, ihr]

/-- Every code goes on from the path it was recorded with. -/
theorem path_prefix_of_mem_codes {tree : CodeTree} {path : Bits} {e : CodeEntry} (he : e ∈ tree.codes dict path) :
    path <+: e.code := by
  induction tree generalizing path with
  | leaf node =>
    obtain rfl := List.mem_singleton.mp he
    exact List.prefix_refl _
  | branch left right ihl ihr =>
    rcases List.mem_append.mp he with hleft | hright
    · exact (List.prefix_append _ _).trans (ihl hleft)
    · exact (List.prefix_append _ _).trans (ihr hright)

/-- The codes of the left subtree branch to 0 where those of the right branch to 1. -/
theorem pairwise_codes (tree : CodeTree) (path : Bits) : (tree.codes dict path).Pairwise BranchesBefore := by
  induction tree generalizing path with
  | leaf node => exact List.pairwise_singleton _ _
  | branch left right ihl ihr =>
    refine List.pairwise_append.mpr ⟨ihl _, ihr _, fun e he f hf => ?_⟩
    obtain ⟨x, hx⟩ := path_prefix_of_mem_codes dict he
    obtain ⟨y, hy⟩ := path_prefix_of_mem_codes dict hf
    exact ⟨path, x, y, by rw [← hx, List.append_assoc, List.singleton_append],
      by rw [← hy, List.append_assoc, List.singleton_append]⟩

/-- The first entry's code goes left all the way (42_code_table.md R132). -/
theorem head?_codes (tree : CodeTree) (path : Bits) :
    ∃ expr n, (tree.codes dict path).head? = some ⟨expr, path ++ List.replicate n false⟩ := by
  induction tree generalizing path with
  | leaf node => exact ⟨leafExpr dict node, 0, by simp [codes]⟩
  | branch left right ihl _ =>
    obtain ⟨expr, n, hhead⟩ := ihl (path ++ [false])
    exact ⟨expr, n + 1, by simp [codes, List.head?_append, hhead, List.replicate_succ]⟩

/-- The last entry's code goes right all the way (42_code_table.md R132). -/
theorem getLast?_codes (tree : CodeTree) (path : Bits) :
    ∃ expr n, (tree.codes dict path).getLast? = some ⟨expr, path ++ List.replicate n true⟩ := by
  induction tree generalizing path with
  | leaf node => exact ⟨leafExpr dict node, 0, by simp [codes]⟩
  | branch left right _ ihr =>
    obtain ⟨expr, n, hlast⟩ := ihr (path ++ [true])
    exact ⟨expr, n + 1, by simp [codes, List.getLast?_append, hlast, List.replicate_succ]⟩

theorem codes_ne_nil (tree : CodeTree) (path : Bits) : tree.codes dict path ≠ [] := by
  obtain ⟨expr, n, hhead⟩ := head?_codes dict tree path
  exact List.ne_nil_of_mem (List.mem_of_head? hhead)

/-- The descent along any bits ends at a leaf or runs out of bits above one (42_code_table.md R137 (b)). -/
theorem exists_code_prefix (tree : CodeTree) (path bits : Bits) :
    ∃ e ∈ tree.codes dict path, e.code <+: path ++ bits ∨ path ++ bits <+: e.code := by
  induction tree generalizing path bits with
  | leaf node => exact ⟨_, List.mem_singleton_self _, .inl (List.prefix_append _ _)⟩
  | branch left right ihl ihr =>
    cases bits with
    | nil =>
      obtain ⟨e, he⟩ := List.exists_mem_of_ne_nil _ (codes_ne_nil dict (branch left right) path)
      exact ⟨e, he, .inr (by simpa using path_prefix_of_mem_codes dict he)⟩
    | cons b bits =>
      rw [List.append_cons]
      cases b with
      | false =>
        obtain ⟨e, he, hprefix⟩ := ihl (path ++ [false]) bits
        exact ⟨e, List.mem_append_left _ he, hprefix⟩
      | true =>
        obtain ⟨e, he, hprefix⟩ := ihr (path ++ [true]) bits
        exact ⟨e, List.mem_append_right _ he, hprefix⟩

/-- No code begins another entry's (42_code_table.md R137 (a)). -/
theorem eq_of_code_prefix {tree : CodeTree} {path : Bits} {e f : CodeEntry} (he : e ∈ tree.codes dict path)
    (hf : f ∈ tree.codes dict path) (hprefix : e.code <+: f.code) : e = f := by
  obtain ⟨i, hi, rfl⟩ := List.getElem_of_mem he
  obtain ⟨j, hj, rfl⟩ := List.getElem_of_mem hf
  have hbranches := List.pairwise_iff_getElem.mp (pairwise_codes dict tree path)
  rcases Nat.lt_trichotomy i j with hlt | rfl | hgt
  · exact absurd hprefix (hbranches i j hi hj hlt).not_prefix.1
  · rfl
  · exact absurd hprefix (hbranches j i hj hi hgt).not_prefix.2

end CodeTree

/-! ### The shortest and the longest code -/

/-- MIN_LEN is the length of some code and of none shorter (42_code_table.md R135). -/
theorem minCodeLen_spec {ct : List CodeEntry} (h : ct ≠ []) :
    (∃ e ∈ ct, e.code.length = minCodeLen ct) ∧ ∀ e ∈ ct, minCodeLen ct ≤ e.code.length := by
  have hmin : (ct.map (fun e => e.code.length)).min? = some (minCodeLen ct) := by
    cases ct with
    | nil => exact absurd rfl h
    | cons e es => rw [List.map_cons, List.min?_cons', minCodeLen, List.foldl_map]
  simpa using List.min?_eq_some_iff.mp hmin

/-- MAX_LEN is the length of some code and of none longer (42_code_table.md R135). -/
theorem maxLenOfCodes_spec {ct : List CodeEntry} (h : ct ≠ []) :
    (∃ e ∈ ct, e.code.length = maxLenOfCodes ct) ∧ ∀ e ∈ ct, e.code.length ≤ maxLenOfCodes ct := by
  have hmax : (ct.map (fun e => e.code.length)).max? = some (maxLenOfCodes ct) := by
    cases ct with
    | nil => exact absurd rfl h
    | cons e es => rw [List.map_cons, List.max?_cons', maxLenOfCodes, List.foldl_cons, Nat.zero_max, List.foldl_map]
  simpa using List.max?_eq_some_iff.mp hmax

end Sys2Proof.Machine
end

section
/-! PROOFS. The tree of a build has every leaf exactly once, and what that makes of the code table of a successful
install (42_code_table.md R131 to R137). -/

namespace Sys2Proof.Machine

/-! ### What every merge keeps -/

/-- A tree that stands at a node comes first in some order. -/
theorem exists_perm_cons {trees : List (Nat × CodeTree)} {j : Nat} (hj : j ∈ trees.map Prod.fst) :
    ∃ tree rest, trees.Perm ((j, tree) :: rest) := by
  obtain ⟨⟨_, tree⟩, hmem, rfl⟩ := List.mem_map.mp hj
  obtain ⟨before, after, rfl⟩ := List.append_of_mem hmem
  exact ⟨tree, before ++ after, List.perm_middle⟩

/-- The trees that stand at the nodes of the working set have these leaves together, each exactly once. -/
structure Forest (leaves : List Node) (t : TreeState) (trees : List (Nat × CodeTree)) : Prop where
  nodup : (trees.map Prod.fst).Nodup
  working : ∀ j, t.inset[j]? = some true ↔ j ∈ trees.map Prod.fst
  stands : ∀ x ∈ trees, x.2.StandsAt t.pool x.1
  leaves : (trees.flatMap fun x => x.2.leaves).Perm leaves

namespace Forest
variable {leaves : List Node} {t : TreeState} {trees : List (Nat × CodeTree)}

theorem of_perm (h : Forest leaves t trees) {trees' : List (Nat × CodeTree)} (hperm : trees.Perm trees') :
    Forest leaves t trees' where
  nodup := (hperm.map Prod.fst).nodup_iff.mp h.nodup
  working j := (h.working j).trans (hperm.map Prod.fst).mem_iff
  stands x hx := h.stands x (hperm.mem_iff.mpr hx)
  leaves := (hperm.symm.flatMap_right _).trans h.leaves

/-- The trees at two nodes of the working set come first in some order. -/
theorem two_first (h : Forest leaves t trees) {a b : Nat} (ha : t.inset[a]? = some true)
    (hb : t.inset[b]? = some true) (hne : a ≠ b) :
    ∃ left right rest, Forest leaves t ((a, left) :: (b, right) :: rest) := by
  obtain ⟨left, others, hperm⟩ := exists_perm_cons ((h.working a).mp ha)
  have h' := h.of_perm hperm
  have hmem : b ∈ others.map Prod.fst := by simpa [Ne.symm hne] using (h'.working b).mp hb
  obtain ⟨right, rest, hperm'⟩ := exists_perm_cons hmem
  exact ⟨left, right, rest, h'.of_perm (hperm'.cons _)⟩

/-- A merge puts a tree with the two taken ones in their place (41_tree_builder.md R119). -/
theorem merge (h : Forest leaves t trees) {n a b : Nat} (hpass : MergePass t n a b) :
    ∃ trees', Forest leaves (merged t a b) trees' := by
  have hin := ((mem_removeNode_iff t a b).mp hpass.secondIn).1
  obtain ⟨left, right, rest, hnodup, hworking, hstands, hleaves⟩ := h.two_first hpass.firstIn hin hpass.first_ne_second
  simp only [List.map_cons, List.nodup_cons, List.mem_cons, not_or] at hnodup hworking
  obtain ⟨⟨hab, ha⟩, hb, hrest⟩ := hnodup
  have hnew : t.pool.length ∉ rest.map Prod.fst := fun hmem =>
    Nat.lt_irrefl _ (hpass.workingSet.lt ((hworking _).mpr (.inr (.inr hmem))))
  refine ⟨(t.pool.length, .branch left right) :: rest, List.nodup_cons.mpr ⟨hnew, hrest⟩, fun j => ?_,
    fun x hx => ?_, ?_⟩
  · rw [mem_merged_iff hpass, hworking, List.map_cons, List.mem_cons]
    grind
  · rcases List.mem_cons.mp hx with rfl | hx
    · exact ⟨_, a, b, nodeAt_append_self _ _, (hstands (a, left) (by simp)).append _,
        (hstands (b, right) (by simp)).append _⟩
    · exact (hstands x (by simp [hx])).append _
  · simpa [CodeTree.leaves] using hleaves

/-- The tree at the node left alone in the working set has all the leaves. -/
theorem last (h : Forest leaves t trees) (hone : WorkingSet t 1) {a : Nat} (ha : t.inset[a]? = some true) :
    ∃ tree : CodeTree, tree.StandsAt t.pool a ∧ tree.leaves.Perm leaves := by
  obtain ⟨tree, rest, hperm⟩ := exists_perm_cons ((h.working a).mp ha)
  have h' := h.of_perm hperm
  have hrest : rest = [] := by
    refine List.eq_nil_iff_forall_not_mem.mpr fun x hx => ?_
    have hmem := List.mem_map_of_mem (f := Prod.fst) hx
    rw [hone.eq_of_one ha ((h'.working x.1).mpr (List.mem_cons_of_mem _ hmem))] at hmem
    exact (List.nodup_cons.mp h'.nodup).1 hmem
  subst hrest
  exact ⟨tree, h'.stands _ List.mem_cons_self, by simpa using h'.leaves⟩

end Forest

theorem map_nodeAt_range (pool : List Node) : (List.range pool.length).map (nodeAt pool) = pool :=
  List.ext_getElem (by simp) fun i _ hi => by simp [nodeAt, hi]

/-- Every node of a pool as a tree of its own. -/
def singleTrees (pool : List Node) : List (Nat × CodeTree) :=
  (List.range pool.length).map fun j => (j, .leaf (nodeAt pool j))

theorem map_fst_singleTrees (pool : List Node) : (singleTrees pool).map Prod.fst = List.range pool.length := by
  simp [singleTrees, Function.comp_def]

theorem flatMap_leaves_singleTrees (pool : List Node) : (singleTrees pool).flatMap (fun x => x.2.leaves) = pool := by
  rw [singleTrees, List.flatMap_map]
  simp only [CodeTree.leaves, ← List.map_eq_flatMap, map_nodeAt_range]

/-- At first every leaf is a tree of its own (41_tree_builder.md R116). -/
theorem forest_makeLeaves (dict : List DictEntry) (root : Nat) :
    Forest (leavesFrom 0 dict) (makeLeaves dict root) (singleTrees (leavesFrom 0 dict)) where
  nodup := by
    rw [map_fst_singleTrees]
    exact List.nodup_range
  working j := by
    rw [map_fst_singleTrees, List.mem_range, makeLeaves_inset]
    simp [List.getElem?_replicate]
  stands x hx := by
    obtain ⟨j, hj, rfl⟩ := List.mem_map.mp hx
    exact ⟨rfl, nodeAt_leavesFrom_leaf (List.mem_range.mp hj)⟩
  leaves := by rw [flatMap_leaves_singleTrees]

/-- The tree of a build has every leaf exactly once (41_tree_builder.md R121, R125). -/
theorem treeBuild_codeTree {cap : Nat} {dict : List DictEntry} {root : Nat} {t : TreeState}
    (htwo : 2 ≤ (dict.filter (fun e => e.active)).length)
    (hcap : 2 * (dict.filter (fun e => e.active)).length - 1 ≤ cap)
    (ht : treeBuild cap dict root = (t, none)) :
    ∃ tree : CodeTree, tree.StandsAt t.pool t.root ∧ tree.leaves.Perm (leavesFrom 0 dict) := by
  obtain ⟨t', a, hone, -, ⟨trees, hforest⟩, -, hin, hbuild⟩ :=
    treeBuild_ends root (P := fun t => ∃ trees, Forest (leavesFrom 0 dict) t trees) htwo hcap
      ⟨_, forest_makeLeaves dict root⟩ fun _ _ _ _ hpass _ ⟨_, h⟩ => h.merge hpass
  obtain rfl : { removeNode t' a with root := a } = t := congrArg Prod.fst (hbuild.symm.trans ht)
  exact hforest.last hone hin

/-! ### The expressions of the leaves -/

/-- The leaves of a dictionary's last entries stand for the expressions of the active ones. -/
theorem map_leafExpr_leavesFrom (entries : List DictEntry) (before : List DictEntry) :
    (leavesFrom before.length entries).map (leafExpr (before ++ entries)) =
      (entries.filter (fun e => e.active)).map DictEntry.expr := by
  induction entries generalizing before with
  | nil => rfl
  | cons e entries ih =>
    have hself : dictAt (before ++ e :: entries) before.length = e := dictAt_of_getElem? (by simp)
    have htail := ih (before ++ [e])
    rw [List.length_append, List.length_singleton, List.append_assoc, List.singleton_append] at htail
    cases he : e.active <;> simp [leavesFrom, he, htail, leafExpr, hself]

/-! ### The code table of a successful install -/

/-- The code table of a VALID key holds the codes of a tree with every leaf of the dictionary once, and the counts and
lengths the install reports are the table's (40_install.md R109, 42_code_table.md R130, R135). -/
structure CodesOfTree (dict : List DictEntry) (k : KeyTables) (tree : CodeTree) : Prop where
  leaves : tree.leaves.Perm (leavesFrom 0 dict)
  ct : k.ct = tree.codes dict []
  leafCount : k.leafCount = BitVec.ofNat 9 (leavesFrom 0 dict).length
  infoCount : k.infoCount = BitVec.ofNat 9 k.ct.length
  minLen : k.minLen = BitVec.ofNat 8 (minCodeLen k.ct)
  maxLen : k.maxLen = BitVec.ofNat 8 (maxLenOfCodes k.ct)

theorem installKey_codesOfTree {p : Params} {t : List Byte} {implicit : Bool} {k : KeyTables}
    (hvalid : (installKey p t implicit k).1.state = .valid) :
    ∃ tree, CodesOfTree (dictBuild p t).dict (installKey p t implicit k).1 tree := by
  rcases installKey_cases p t implicit k with ⟨e, -, hfailed, -⟩ | ⟨tree, ct, htree, hcode, -, hkey⟩
  · cases hfailed.symm.trans hvalid
  · obtain ⟨codeTree, hstands, hleaves⟩ :=
      treeBuild_codeTree (Nat.le_trans (by decide) (le_activeEntries p t)) (dictBuild_fits p t) htree
    rw [hkey]
    exact ⟨codeTree, hleaves, hstands.codes_of_visit hcode, rfl, rfl, rfl, rfl⟩

namespace CodesOfTree
variable {dict : List DictEntry} {k : KeyTables} {tree : CodeTree}

/-- The code table has the expressions of the active entries, each as often as they have it. -/
theorem exprs_perm (h : CodesOfTree dict k tree) :
    (k.ct.map CodeEntry.expr).Perm ((dict.filter (fun e => e.active)).map DictEntry.expr) := by
  rw [h.ct, CodeTree.map_expr_codes, ← map_leafExpr_leavesFrom dict []]
  exact h.leaves.map _

theorem ct_ne_nil (h : CodesOfTree dict k tree) : k.ct ≠ [] := by
  rw [h.ct]
  exact CodeTree.codes_ne_nil dict tree []

end CodesOfTree

/-- In a code table whose expressions are distinct an expression has one entry. -/
theorem eq_of_expr_eq {ct : List CodeEntry} (hdistinct : (ct.map CodeEntry.expr).Nodup) {e f : CodeEntry} (he : e ∈ ct)
    (hf : f ∈ ct) (hexpr : e.expr = f.expr) : e = f := by
  obtain ⟨i, hi, rfl⟩ := List.getElem_of_mem he
  obtain ⟨j, hj, rfl⟩ := List.getElem_of_mem hf
  have hmapped (m : Nat) (hm : m < ct.length) : m < (ct.map CodeEntry.expr).length := by rwa [List.length_map]
  obtain rfl : i = j := (List.getElem_inj (h₀ := hmapped i hi) (h₁ := hmapped j hj) hdistinct).mp
    (by rw [List.getElem_map, List.getElem_map, hexpr])
  rfl

/-- Settles O26: the codes of a tree are complete and none begins another, and its leaves have the active entries'
distinct expressions. -/
theorem installedCodesAreComplete : Obligations.InstalledCodesAreComplete := by
  intro p t implicit k hvalid
  obtain ⟨tree, h⟩ := installKey_codesOfTree hvalid
  have hdistinct := h.exprs_perm.nodup_iff.mpr (dictBuild_firstActive p t).nodup
  refine ⟨fun e he f hf hprefix => ?_, fun bits => ?_, hdistinct, fun b => ?_⟩
  · rw [h.ct] at he hf
    exact CodeTree.eq_of_code_prefix _ he hf hprefix
  · rw [h.ct]
    exact CodeTree.exists_code_prefix _ tree [] bits
  · obtain ⟨e, he, hexpr⟩ := List.mem_map.mp (h.exprs_perm.mem_iff.mpr (byte_mem_activeExprs p t b))
    exact ⟨e, he, hexpr, fun f hf hfexpr => eq_of_expr_eq hdistinct hf he (hfexpr.trans hexpr.symm)⟩

/-- Settles O27: the leaves of the tree are those of the active entries. -/
theorem codeTableHoldsEachLeafOnce : Obligations.CodeTableHoldsEachLeafOnce := by
  intro p t implicit k hvalid k' active
  obtain ⟨tree, h⟩ := installKey_codesOfTree hvalid
  have hlen : k'.ct.length = active.length := by simpa using h.exprs_perm.length_eq
  exact ⟨h.exprs_perm, hlen, by rw [h.leafCount, length_leavesFrom], by rw [h.infoCount, hlen]⟩

/-- Settles O28: the lengths fit their fields, as every code has at most 128 bits. -/
theorem codeInfoHoldsTheCodeLengths : Obligations.CodeInfoHoldsTheCodeLengths := by
  intro p t implicit k hvalid k'
  obtain ⟨tree, h⟩ := installKey_codesOfTree hvalid
  have hfits (e : CodeEntry) (he : e ∈ k'.ct) : e.code.length < 2 ^ 8 :=
    Nat.lt_of_le_of_lt ((installedTablesAgree p t implicit k hvalid).sizes e he).2.1 (by decide)
  obtain ⟨⟨shortest, hshortest, hminLen⟩, hmin⟩ := minCodeLen_spec h.ct_ne_nil
  obtain ⟨⟨longest, hlongest, hmaxLen⟩, hmax⟩ := maxLenOfCodes_spec h.ct_ne_nil
  have hminReg : k'.minLen.toNat = minCodeLen k'.ct := by
    rw [h.minLen, ← hminLen, BitVec.toNat_ofNat, Nat.mod_eq_of_lt (hfits _ hshortest)]
  have hmaxReg : k'.maxLen.toNat = maxLenOfCodes k'.ct := by
    rw [h.maxLen, ← hmaxLen, BitVec.toNat_ofNat, Nat.mod_eq_of_lt (hfits _ hlongest)]
  rw [hminReg, hmaxReg]
  refine ⟨fun e he => ⟨hmin e he, hmax e he⟩, ⟨shortest, hshortest, hminLen⟩, ⟨longest, hlongest, hmaxLen⟩, ?_, ?_, ?_⟩
  · obtain ⟨expr, n, hhead⟩ := tree.head?_codes (dictBuild p t).dict []
    rw [← h.ct] at hhead
    exact ⟨_, hhead, fun b hb => List.eq_of_mem_replicate hb⟩
  · obtain ⟨expr, n, hlast⟩ := tree.getLast?_codes (dictBuild p t).dict []
    rw [← h.ct] at hlast
    exact ⟨_, hlast, fun b hb => List.eq_of_mem_replicate hb⟩
  · intro i j e f hij he hf
    have hbranches := tree.pairwise_codes (dictBuild p t).dict []
    rw [← h.ct] at hbranches
    obtain ⟨hi, rfl⟩ := List.getElem?_eq_some_iff.mp he
    obtain ⟨hj, rfl⟩ := List.getElem?_eq_some_iff.mp hf
    exact List.pairwise_iff_getElem.mp hbranches i j hi hj hij

end Sys2Proof.Machine
end

section
/-! PROOFS. What a command and a step can make of the key tables, and that the codes of a VALID key stay complete
(10_state.md R46, 20_memory.md R66). -/

namespace Sys2Proof.Machine

/-- The key tables `k'` a step can leave: those before it, those of a reset, or those of an install (20_memory.md
R66). -/
def KeyNext (p : Params) (k k' : KeyTables) : Prop :=
  k' = k ∨ k' = KeyTables.reset ∨ ∃ text implicit, k' = (installKey p text implicit k).1

theorem ensureKey_keyNext (s : State) : KeyNext s.cfg s.key (ensureKey s).1.key := by
  rcases ensureKey_cases s with ⟨-, he⟩ | ⟨-, he⟩ | ⟨-, he, -⟩
  · exact .inl (by rw [he])
  · exact .inl (by rw [he])
  · exact .inr (.inr ⟨_, _, by rw [he]⟩)

theorem installCommand_keyNext (s : State) : KeyNext s.cfg s.key (installCommand s).key := by
  rcases installCommand_cases s with ⟨-, hs⟩ | ⟨-, hs⟩
  · exact .inl (by rw [hs, complete_key])
  · exact .inr (.inr ⟨_, _, by rw [hs, complete_key]⟩)

theorem KeyedCommand.keyNext {command payload : State → State} (hc : KeyedCommand command payload) (s : State) :
    KeyNext s.cfg s.key (command s).key := by
  rcases Nat.lt_or_ge s.cfg.srcMax s.srcLen.toNat with hover | hfits
  · exact .inl (hc.key_of_over hover)
  · rw [hc.key_of_fits hfits]
    exact ensureKey_keyNext s

theorem exec_keyNext {i : Instr} {s t : State} (h : exec i s = .next t) : KeyNext s.cfg s.key t.key := by
  cases i with
  | install =>
    rw [exec_install_next rfl h]
    exact installCommand_keyNext s
  | pack =>
    obtain ⟨command, payload, hc, rfl⟩ := exec_keyed_next (.inl rfl) h
    exact hc.keyNext s
  | unpack =>
    obtain ⟨command, payload, hc, rfl⟩ := exec_keyed_next (.inr rfl) h
    exact hc.keyNext s
  | reset =>
    rw [exec_reset_next rfl h]
    exact .inr (.inl (resetCommand_key s))
  | illegal op zero =>
    rw [exec_illegal_next rfl h]
    exact .inl rfl

theorem step_keyNext {s t : State} (h : step s = .next t) : KeyNext s.cfg s.key t.key := by
  rcases step_cases s with ⟨w, -, -, hstep⟩ | ⟨-, hstep⟩
  · exact exec_keyNext (hstep.symm.trans h)
  · obtain rfl := Host.Outcome.next.inj (hstep.symm.trans h)
    rw [otherStep_key]
    split
    · exact .inr (.inl rfl)
    · exact .inl rfl

/-- Settles O59: a step keeps the key tables, resets them, or installs a key, whose codes O26 says are complete. -/
theorem everyStepKeepsTheCodesComplete : Obligations.EveryStepKeepsTheCodesComplete := by
  intro s t hs hstep hvalid
  rcases step_keyNext hstep with hkept | hreset | ⟨text, implicit, hinstalled⟩
  · rw [hkept] at hvalid ⊢
    exact hs hvalid
  · rw [hreset] at hvalid
    cases hvalid
  · rw [hinstalled] at hvalid ⊢
    exact installedCodesAreComplete s.cfg text implicit s.key hvalid

end Sys2Proof.Machine
end

section
/-! PROOFS. The tokenizer: the longest match at a cursor, and what a run of longest matches gives (43_pack.md R143
to R145, R153), with the statements O45 and O46. -/

namespace Sys2Proof.Machine

/-! ### The longest match -/

theorem lookupCode_some {ct : List CodeEntry} {w : List Byte} {e : CodeEntry} (h : lookupCode ct w = some e) :
    e ∈ ct ∧ e.expr = w := by
  rw [lookupCode] at h
  exact ⟨List.mem_of_find?_eq_some h, by simpa using List.find?_some h⟩

theorem lookupCode_none {ct : List CodeEntry} {w : List Byte} (h : lookupCode ct w = none) {f : CodeEntry}
    (hf : f ∈ ct) : f.expr ≠ w := by
  simpa using List.find?_eq_none.mp h f hf

/-- A match is an entry whose expression is that many bytes of the rest. -/
theorem matchFrom_some {ct : List CodeEntry} {rest : List Byte} {l : Nat} {e : CodeEntry} :
    ∀ {m : Nat}, matchFrom ct rest m = some (l, e) → 1 ≤ l ∧ l ≤ m ∧ e ∈ ct ∧ e.expr = rest.take l
  | m + 1, h => by
    rw [matchFrom] at h
    split at h
    next f hlook =>
      obtain ⟨rfl, rfl⟩ : m + 1 = l ∧ f = e := by simpa using h
      obtain ⟨hmem, hexpr⟩ := lookupCode_some hlook
      exact ⟨by omega, Nat.le_refl _, hmem, hexpr⟩
    next =>
      obtain ⟨hpos, hle, hmem, hexpr⟩ := matchFrom_some h
      exact ⟨hpos, by omega, hmem, hexpr⟩

/-- No candidate length above the one found, and none at all when nothing is found, has an entry. -/
theorem matchFrom_longest {ct : List CodeEntry} {rest : List Byte} {f : CodeEntry} (hf : f ∈ ct)
    (hpre : f.expr <+: rest) (hpos : 1 ≤ f.expr.length) :
    ∀ {m : Nat}, f.expr.length ≤ m → ∃ l e, matchFrom ct rest m = some (l, e) ∧ f.expr.length ≤ l
  | 0, hm => by omega
  | m + 1, hm => by
    rw [matchFrom]
    split
    next e hlook => exact ⟨_, _, rfl, hm⟩
    next hlook =>
      have hne : f.expr.length ≠ m + 1 := fun hlen =>
        lookupCode_none hlook hf (hlen ▸ List.prefix_iff_eq_take.mp hpre)
      exact matchFrom_longest hf hpre hpos (by omega)

theorem longestMatch_some {ct : List CodeEntry} {rest : List Byte} {l : Nat} {e : CodeEntry}
    (h : longestMatch ct rest = some (l, e)) :
    1 ≤ l ∧ l ≤ 15 ∧ l ≤ rest.length ∧ e ∈ ct ∧ e.expr = rest.take l := by
  obtain ⟨hpos, hle, hmem, hexpr⟩ := matchFrom_some h
  rw [maxExprLen, Nat.le_min] at hle
  exact ⟨hpos, hle.1, hle.2, hmem, hexpr⟩

/-- An entry that starts the rest is no longer than the longest match. -/
theorem longestMatch_longest {ct : List CodeEntry} {rest : List Byte} {f : CodeEntry} (hf : f ∈ ct)
    (hpre : f.expr <+: rest) (hpos : 1 ≤ f.expr.length) (hmax : f.expr.length ≤ 15) :
    ∃ l e, longestMatch ct rest = some (l, e) ∧ f.expr.length ≤ l :=
  matchFrom_longest hf hpre hpos (Nat.le_min.mpr ⟨hmax, hpre.length_le⟩)

/-- Settles O45: the candidate lengths fall from 15 or the rest's length to 1. -/
theorem tokenizerTakesTheLongestMatch : Obligations.TokenizerTakesTheLongestMatch := by
  refine fun ct rest => ⟨fun l e h => ?_, fun hnone f hf hpos hmax hpre => ?_⟩
  · obtain ⟨hpos, hmax, hle, hmem, hexpr⟩ := longestMatch_some h
    refine ⟨hpos, hmax, hle, hmem, hexpr, fun f hf hfmax hpre => ?_⟩
    rcases Nat.eq_zero_or_pos f.expr.length with hzero | hfpos
    · omega
    · obtain ⟨l', e', h', hle'⟩ := longestMatch_longest hf hpre hfpos hfmax
      obtain ⟨rfl, -⟩ : l = l' ∧ e = e' := by simpa [h] using h'
      exact hle'
  · obtain ⟨l, e, h, -⟩ := longestMatch_longest hf hpre hpos hmax
    simp [hnone] at h

/-! ### A run of the tokenizer -/

/-- The longest match and what follows it make up the rest. -/
theorem longestMatch_split {ct : List CodeEntry} {rest : List Byte} {l : Nat} {e : CodeEntry}
    (h : longestMatch ct rest = some (l, e)) : e.expr.length = l ∧ e.expr ++ rest.drop l = rest := by
  obtain ⟨-, -, hle, -, hexpr⟩ := longestMatch_some h
  rw [hexpr]
  exact ⟨List.length_take_of_le hle, List.take_append_drop l rest⟩

/-- Nothing matches at the end of the input. -/
theorem longestMatch_nil (ct : List CodeEntry) : longestMatch ct [] = none := rfl

section
variable (ct : List CodeEntry) (dstMax : Nat)

/-- Skipped bytes are dropped from the input. -/
theorem tokenizeFrom_skip (bits : Bits) : ∀ (k : Nat) (input : List Byte),
    tokenizeFrom ct dstMax k bits input = tokenizeFrom ct dstMax 0 bits (input.drop k)
  | 0, _ => rfl
  | _ + 1, [] => rfl
  | k + 1, _ :: rest => tokenizeFrom_skip bits k rest

variable {ct dstMax} {bits : Bits} {rest : List Byte}

theorem tokenizeFrom_noMatch (hrest : rest ≠ []) (h : longestMatch ct rest = none) :
    tokenizeFrom ct dstMax 0 bits rest = .error .encodingFailure := by
  obtain ⟨b, bs, rfl⟩ := List.exists_cons_of_ne_nil hrest
  simp only [tokenizeFrom, h]

theorem tokenizeFrom_overflow {l : Nat} {e : CodeEntry} (h : longestMatch ct rest = some (l, e))
    (hover : 4 * (dstMax - 2) < bits.length + e.code.length) :
    tokenizeFrom ct dstMax 0 bits rest = .error .capacityError := by
  cases rest with
  | nil => simp [longestMatch_nil] at h
  | cons b bs =>
    simp only [tokenizeFrom, h]
    exact if_pos (by rwa [bitBufferMax, List.length_append])

/-- A code that fits is appended, and the cursor goes behind its expression. -/
theorem tokenizeFrom_match {l : Nat} {e : CodeEntry} (h : longestMatch ct rest = some (l, e))
    (hfit : bits.length + e.code.length ≤ 4 * (dstMax - 2)) :
    tokenizeFrom ct dstMax 0 bits rest = tokenizeFrom ct dstMax 0 (bits ++ e.code) (rest.drop l) := by
  cases rest with
  | nil => simp [longestMatch_nil] at h
  | cons b bs =>
    obtain ⟨k, rfl⟩ : ∃ k, l = k + 1 := ⟨l - 1, by have := (longestMatch_some h).1; omega⟩
    simp only [tokenizeFrom, h, Nat.add_sub_cancel, List.drop_succ_cons]
    rw [if_neg (by rw [bitBufferMax, List.length_append]; omega), tokenizeFrom_skip]

end

/-! ### Lists of longest matches -/

theorem longestMatches_nil (ct : List CodeEntry) (rest : List Byte) : LongestMatches ct [] rest :=
  fun before e after h => by simp at h

theorem longestMatches_cons {ct tokens : List CodeEntry} {e : CodeEntry} {rest : List Byte} :
    LongestMatches ct (e :: tokens) rest ↔
      longestMatch ct (e.expr ++ (tokens.flatMap CodeEntry.expr ++ rest)) = some (e.expr.length, e) ∧
        LongestMatches ct tokens rest := by
  refine ⟨fun h => ⟨by simpa using h [] e tokens rfl, fun before f after hsplit => ?_⟩, fun ⟨hhead, htail⟩ => ?_⟩
  · exact h (e :: before) f after (by rw [hsplit, List.cons_append])
  · intro before f after hsplit
    cases before with
    | nil =>
      obtain ⟨rfl, rfl⟩ : e = f ∧ tokens = after := by simpa using hsplit
      simpa using hhead
    | cons g before =>
      obtain ⟨-, htokens⟩ : e = g ∧ tokens = before ++ f :: after := by simpa using hsplit
      exact htail before f after htokens

/-- Longest matches whose codes fit are taken one after another. -/
theorem tokenizeFrom_tokens {ct : List CodeEntry} {dstMax : Nat} {rest : List Byte} :
    ∀ {tokens : List CodeEntry} {bits : Bits}, LongestMatches ct tokens rest →
      bits.length + (tokens.flatMap CodeEntry.code).length ≤ 4 * (dstMax - 2) →
      tokenizeFrom ct dstMax 0 bits (tokens.flatMap CodeEntry.expr ++ rest) =
        tokenizeFrom ct dstMax 0 (bits ++ tokens.flatMap CodeEntry.code) rest
  | [], bits, _, _ => by simp
  | e :: tokens, bits, hmatches, hfit => by
    obtain ⟨hhead, htail⟩ := longestMatches_cons.mp hmatches
    simp only [List.flatMap_cons, List.append_assoc, List.length_append] at hfit ⊢
    rw [tokenizeFrom_match hhead (by omega), List.drop_left,
      tokenizeFrom_tokens htail (by rw [List.length_append]; omega), List.append_assoc]

/-- Bits the tokenizer answers are the codes of longest matches that make up the input. -/
theorem tokens_of_tokenizeFrom {ct : List CodeEntry} {dstMax : Nat} {input : List Byte} {acc bits : Bits}
    (h : tokenizeFrom ct dstMax 0 acc input = .ok bits) (hacc : acc.length ≤ 4 * (dstMax - 2)) :
    ∃ tokens : List CodeEntry, (∀ e ∈ tokens, e ∈ ct) ∧ tokens.flatMap CodeEntry.expr = input ∧
      acc ++ tokens.flatMap CodeEntry.code = bits ∧ bits.length ≤ 4 * (dstMax - 2) ∧
      LongestMatches ct tokens [] := by
  by_cases hinput : input = []
  · subst hinput
    obtain rfl : acc = bits := Except.ok.inj h
    exact ⟨[], by simp, rfl, by simp, hacc, longestMatches_nil ct []⟩
  cases hmatch : longestMatch ct input with
  | none => simp [tokenizeFrom_noMatch hinput hmatch] at h
  | some found =>
    obtain ⟨l, e⟩ := found
    obtain ⟨hpos, -, hle, hmem, -⟩ := longestMatch_some hmatch
    obtain ⟨hlen, hsplit⟩ := longestMatch_split hmatch
    rcases Nat.lt_or_ge (4 * (dstMax - 2)) (acc.length + e.code.length) with hover | hfit
    · simp [tokenizeFrom_overflow hmatch hover] at h
    · rw [tokenizeFrom_match hmatch hfit] at h
      obtain ⟨tokens, hin, hexprs, hcodes, hbits, hmatches⟩ :=
        tokens_of_tokenizeFrom h (by rwa [List.length_append])
      refine ⟨e :: tokens, List.forall_mem_cons.mpr ⟨hmem, hin⟩, ?_, ?_, hbits, longestMatches_cons.mpr ⟨?_, hmatches⟩⟩
      · rw [List.flatMap_cons, hexprs, hsplit]
      · rw [List.flatMap_cons, ← List.append_assoc, hcodes]
      · rw [hexprs, List.append_nil, hsplit, hlen, hmatch]
termination_by input.length
decreasing_by
  rw [List.length_drop]
  omega

/-- Settles O46: a run over the tokens, and the tokens of a run. -/
theorem tokenizerSplitsThePayload : Obligations.TokenizerSplitsThePayload := by
  refine fun ct dstMax payload => ⟨fun bits => ⟨fun h => ?_, ?_⟩, ?_⟩
  · simpa using tokens_of_tokenizeFrom h (Nat.zero_le _)
  · rintro ⟨tokens, -, rfl, rfl, hfit, hmatches⟩
    simpa [tokenize, tokenizeFrom] using tokenizeFrom_tokens (bits := []) hmatches (by simpa using hfit)
  · rintro tokens rest rfl hmatches hfit
    have hrun : tokenize ct dstMax (tokens.flatMap CodeEntry.expr ++ rest) =
        tokenizeFrom ct dstMax 0 (tokens.flatMap CodeEntry.code) rest :=
      tokenizeFrom_tokens (bits := []) hmatches (by simpa using hfit)
    exact ⟨fun e hmatch hover => hrun.trans (tokenizeFrom_overflow hmatch hover),
      fun hrest hmatch => hrun.trans (tokenizeFrom_noMatch hrest hmatch)⟩

end Sys2Proof.Machine
end

section
/-! PROOFS. The pad-bit generator (43_pack.md R146, R148): the statement O47. -/

namespace Sys2Proof.Machine

theorem lfsrNext_getLsbD_zero (S : BitVec 16) :
    (lfsrNext S).getLsbD 0 = (S.getLsbD 15 ^^ S.getLsbD 13 ^^ S.getLsbD 12 ^^ S.getLsbD 10) := by
  simp [lfsrNext]

theorem lfsrNext_getLsbD_succ (S : BitVec 16) {i : Nat} (h : i < 15) :
    (lfsrNext S).getLsbD (i + 1) = S.getLsbD i := by
  have hbit : i + 1 < 16 := by omega
  rw [lfsrNext, BitVec.getLsbD_or, BitVec.getLsbD_shiftLeft, BitVec.getLsbD_setWidth, BitVec.getLsbD_ofBool]
  simp [hbit]

theorem lfsrNext_zero : lfsrNext 0#16 = 0#16 := by decide

theorem lfsrAfter_zero : ∀ n : Nat, lfsrAfter 0#16 n = 0#16
  | 0 => rfl
  | n + 1 => by rw [lfsrAfter, lfsrNext_zero, lfsrAfter_zero n]

theorem lfsrBits_zero : ∀ n : Nat, lfsrBits 0#16 n = List.replicate n false
  | 0 => rfl
  | n + 1 => by
    rw [lfsrBits, lfsrNext_zero, lfsrBits_zero n]
    rfl

/-- Settles O47: the bits of one step, and inductions from the zero state. -/
theorem padBitGeneratorStep : Obligations.PadBitGeneratorStep :=
  ⟨fun S => ⟨rfl, lfsrNext_getLsbD_zero S, fun _ h => lfsrNext_getLsbD_succ S h⟩,
    fun _ _ => ⟨rfl, rfl, rfl, rfl⟩, fun n => ⟨lfsrAfter_zero n, lfsrBits_zero n⟩, rfl⟩

end Sys2Proof.Machine
end

section
/-! PROOFS. The two ends of PACK and UNPACK, with a result and without one: their frames and the statement O42
(43_pack.md R152, 44_unpack.md R170, 45_control.md R188). -/

namespace Sys2Proof.Machine

/-! ### The end with a result -/

/-- The end of a PACK or an UNPACK with a result: the result, the generator's state and the completion. -/
def withResult (bytes : List Byte) (regs : ResultRegs) (rng : BitVec 16) (s : State) : State :=
  complete .ok { writeResult bytes regs s with rng := rng }

section
variable (bytes : List Byte) (regs : ResultRegs) (rng : BitVec 16) (s : State)

@[simp] theorem withResult_errCode : (withResult bytes regs rng s).errCode = .ok := rfl
@[simp] theorem withResult_out : (withResult bytes regs rng s).out = regs := rfl
@[simp] theorem withResult_key : (withResult bytes regs rng s).key = s.key := rfl
@[simp] theorem withResult_rng : (withResult bytes regs rng s).rng = rng := rfl

variable {bytes s}

/-- The result's bytes stand from 0x04000 on, fresh draws behind them, and every other byte is as before. -/
theorem byteAt_withResult (hfit : bytes.length ≤ s.cfg.dstMax) (a : Nat) :
    byteAt (withResult bytes regs rng s) a =
      if InDst s.cfg a then (bytes[a - dstBase]?).getD (Config.freeByte s.draws a) else byteAt s a :=
  byteAt_writeResult bytes regs s a hfit

theorem byteAt_withResult_of_getElem? (hfit : bytes.length ≤ s.cfg.dstMax) {i : Nat} {b : Byte}
    (h : bytes[i]? = some b) : byteAt (withResult bytes regs rng s) (dstBase + i) = b := by
  have hi : i < bytes.length := (List.getElem?_eq_some_iff.mp h).1
  rw [byteAt_withResult regs rng hfit, if_pos ⟨by omega, by omega⟩, Nat.add_sub_cancel_left, h, Option.getD_some]

theorem byteAt_withResult_behind (hfit : bytes.length ≤ s.cfg.dstMax) {i : Nat} (hbehind : bytes.length ≤ i)
    (hi : i < s.cfg.dstMax) :
    byteAt (withResult bytes regs rng s) (dstBase + i) = Config.freeByte s.draws (dstBase + i) := by
  rw [byteAt_withResult regs rng hfit, if_pos ⟨by omega, by omega⟩, Nat.add_sub_cancel_left,
    List.getElem?_eq_none hbehind, Option.getD_none]

/-- The result reads back. -/
theorem resultBytes_withResult (hfit : bytes.length ≤ s.cfg.dstMax) (hlen : regs.dstLen.toNat = bytes.length) :
    resultBytes (withResult bytes regs rng s) = bytes := by
  rw [resultBytes, withResult_out, hlen, bytesAt]
  refine List.ext_getElem (by simp) fun i _ hi => ?_
  rw [List.getElem_map, List.getElem_range,
    byteAt_withResult_of_getElem? regs rng hfit (List.getElem?_eq_getElem hi)]

end

/-! ### Frames over the key check -/

/-- The key check changes the key tables only (45_control.md R185). -/
theorem ensureKey_fst (s : State) : (ensureKey s).1 = { s with key := (ensureKey s).1.key } := by
  rcases ensureKey_cases s with ⟨-, h⟩ | ⟨-, h⟩ | ⟨-, h, -⟩ <;> rw [h]

/-- The end without a result, after the key check. -/
theorem failedWith_noResult (e : ErrCode) (k : KeyTables) (s : State) :
    FailedWith e k s (complete e (noResult { s with key := k })) where
  completed := { complete_completedWith e (noResult { s with key := k }) with }
  hostSide := ⟨rfl, rfl, rfl, rfl, rfl, rfl, rfl, rfl⟩
  key := rfl
  rng := rfl
  out := rfl
  outside := noResult_outsideDstSame { s with key := k }

/-- The frame of the end with a result, after the key check. -/
theorem withResult_frame {bytes : List Byte} {s : State} (regs : ResultRegs) (rng : BitVec 16) (k : KeyTables)
    (hfit : bytes.length ≤ s.cfg.dstMax) :
    let t := withResult bytes regs rng { s with key := k }
    CompletedWith .ok s t ∧ HostSideSame s t ∧ OutsideDstSame s t :=
  ⟨⟨rfl, rfl, rfl, rfl, rfl⟩, ⟨rfl, rfl, rfl, rfl, rfl, rfl, rfl, rfl⟩,
    writeResult_outsideDstSame bytes regs { s with key := k } hfit⟩

/-- What the last part of PACK and of UNPACK leaves: the end without a result or the end with one that fits. -/
inductive Ended (s : State) : State → Prop
  | failed (e : ErrCode) : Ended s (complete e (noResult s))
  | done (bytes : List Byte) (regs : ResultRegs) (rng : BitVec 16) (hfit : bytes.length ≤ s.cfg.dstMax) :
    Ended s (withResult bytes regs rng s)

theorem Ended.frame {s t : State} {k : KeyTables} (h : Ended { s with key := k } t) :
    CompletedWith t.errCode s t ∧ HostSideSame s t ∧ OutsideDstSame s t := by
  cases h with
  | failed e =>
    obtain ⟨hcompleted, hhost, -, -, -, houtside⟩ := failedWith_noResult e k s
    exact ⟨hcompleted, hhost, houtside⟩
  | done bytes regs rng hfit => exact withResult_frame regs rng k hfit

theorem Ended.noResult {s t : State} {k : KeyTables} (h : Ended { s with key := k } t) (hcode : t.errCode ≠ .ok) :
    t.out = ResultRegs.absent ∧ t.rng = s.rng ∧ ∀ a, InDst s.cfg a → byteAt t a = Config.freeByte s.draws a := by
  cases h with
  | failed e => exact ⟨rfl, rfl, fun a ha => (byteAt_noResult { s with key := k } a).trans (if_pos ha)⟩
  | done bytes regs rng hfit => exact absurd rfl hcode

/-! ### The last part of PACK -/

theorem padCount_dvd (l : Nat) : (l + padCount l) % 8 = 0 := by
  rw [padCount]
  omega

theorem padCount_lt (l : Nat) : padCount l < 8 := Nat.mod_lt _ (by decide)

@[simp] theorem length_lfsrBits (S : BitVec 16) (n : Nat) : (lfsrBits S n).length = n := by
  induction n generalizing S with
  | zero => rfl
  | succ n ih => rw [lfsrBits, List.length_cons, ih]

/-- Nibble `i` of a bit string (43_pack.md R149). -/
def nibbleAt (B : Bits) (i : Nat) : Nibble :=
  nibbleOf (B[4 * i]?.getD false) (B[4 * i + 1]?.getD false) (B[4 * i + 2]?.getD false) (B[4 * i + 3]?.getD false)

theorem nibblesOf_eq_map_range : ∀ B : Bits, nibblesOf B = (List.range (B.length / 4)).map (nibbleAt B)
  | b3 :: b2 :: b1 :: b0 :: B => by
    have hlen : (b3 :: b2 :: b1 :: b0 :: B).length / 4 = B.length / 4 + 1 :=
      Nat.add_div_right B.length (show 0 < 4 by decide)
    rw [nibblesOf, nibblesOf_eq_map_range B, hlen, List.range_succ_eq_map, List.map_cons, List.map_map]
    rfl
  | [] | [_] | [_, _] | [_, _, _] => by simp [nibblesOf]

/-- The data nibbles are the K = (L + p) / 4 nibbles of the pad bits and the code bits. -/
theorem dataNibbles_eq (rng : BitVec 16) (bits : Bits) :
    dataNibbles rng bits = (List.range ((bits.length + padCount bits.length) / 4)).map
      (nibbleAt (lfsrBits rng (padCount bits.length) ++ bits)) := by
  rw [dataNibbles, nibblesOf_eq_map_range, List.length_append, length_lfsrBits, Nat.add_comm]

theorem length_packedString (rng : BitVec 16) (bits : Bits) :
    (packedString rng bits).length = packedLength bits.length := by
  simp [packedString, dataNibbles_eq, packedLength]

/-- The result registers of a successful PACK (43_pack.md R140). -/
def packRegs (l : Nat) : ResultRegs where
  dstLen := BitVec.ofNat 16 (packedLength l)
  pad := BitVec.ofNat 3 (padCount l)
  trail := 0#8
  trailWarn := false

theorem packBits_of_fits {bits : Bits} {s : State} (h : packedLength bits.length ≤ s.cfg.dstMax) :
    packBits bits s = withResult (packedString s.rng bits) (packRegs bits.length)
      (lfsrAfter s.rng (padCount bits.length)) s :=
  if_neg (Nat.not_lt.mpr h)

theorem packPayload_ended (s : State) : Ended s (packPayload s) := by
  rcases packPayload_cases s with ⟨e, h, -⟩ | ⟨bits, -, hfit, h⟩
  · rw [h]
    exact .failed e
  · rw [h, packBits_of_fits hfit]
    exact .done _ _ _ (by rwa [length_packedString])

/-! ### The last part of UNPACK -/

/-- A walk's output fits in DSTMEM (44_unpack.md R169). -/
theorem length_output_of_walkFrom {k : KeyTables} {dstMax : Nat} {w : WalkResult} :
    ∀ {bits : Bits} {node d : Nat} {out : List Byte}, walkFrom k dstMax node d out bits = .ok w →
      out.length ≤ dstMax → w.output.length ≤ dstMax
  | [], _, _, _, h, hout => by
    obtain rfl := Except.ok.inj h
    exact hout
  | b :: bits, node, d, out, h, hout => by
    rw [walkFrom] at h
    split at h
    · cases h
    · split at h
      · cases h
      · exact length_output_of_walkFrom h hout
      · split at h
        · cases h
        · exact length_output_of_walkFrom h (by rw [List.length_append]; omega)

theorem unpackSource_ended (s : State) : Ended s (unpackSource s) := by
  rcases unpackSource_cases s with ⟨-, h⟩ | ⟨e, h⟩ | ⟨f, w, -, hwalk, h⟩
  · rw [h]
    exact .done [] ResultRegs.absent s.rng (Nat.zero_le _)
  · rw [h]
    exact .failed e
  · rw [h]
    exact .done w.output (unpackRegs f.pad w) s.rng (length_output_of_walkFrom hwalk (Nat.zero_le _))

theorem unpackSource_rng (s : State) : (unpackSource s).rng = s.rng := by
  rcases unpackSource_cases s with ⟨-, h⟩ | ⟨e, h⟩ | ⟨f, w, -, -, h⟩ <;> simp [h]

/-! ### The whole commands -/

namespace KeyedCommand

variable {command payload : State → State} {s : State}

theorem of_over (hc : KeyedCommand command payload) (h : s.cfg.srcMax < s.srcLen.toNat) :
    command s = complete .capacityError (noResult s) :=
  ((hc.cases s).resolve_right fun hfits => by omega).2

/-- A keyed command ends as its last part does, from the state of the key check. -/
theorem ended (hc : KeyedCommand command payload) (hpayload : ∀ s, Ended s (payload s)) :
    ∃ k, Ended { s with key := k } (command s) := by
  rcases hc.cases s with ⟨-, hs⟩ | ⟨-, ⟨e, -, hs⟩ | ⟨-, hs⟩⟩
  · rw [hs]
    exact ⟨s.key, .failed .capacityError⟩
  · refine ⟨(ensureKey s).1.key, ?_⟩
    rw [← ensureKey_fst, hs]
    exact .failed e
  · refine ⟨(ensureKey s).1.key, ?_⟩
    rw [← ensureKey_fst, hs]
    exact hpayload _

end KeyedCommand

theorem ensureKey_rng (s : State) : (ensureKey s).1.rng = s.rng := by rw [ensureKey_fst]

theorem unpackCommand_rng (s : State) : (unpackCommand s).rng = s.rng := by
  rcases unpackCommand_cases s with ⟨-, hs⟩ | ⟨-, ⟨e, -, hs⟩ | ⟨-, hs⟩⟩
  · simp [hs]
  · simp [hs, ensureKey_rng]
  · rw [hs, unpackSource_rng, ensureKey_rng]

/-- Settles O42: both commands are keyed commands whose last parts end with a result that fits or without one. -/
theorem packAndUnpackFailuresAndFrames : Obligations.PackAndUnpackFailuresAndFrames := by
  intro i s hi
  obtain ⟨command, payload, hc, hpayload, hexec, hrng⟩ : ∃ command payload, KeyedCommand command payload ∧
      (∀ s, Ended s (payload s)) ∧ exec i s = .next (command s) ∧ (i = .unpack → (command s).rng = s.rng) := by
    rcases hi with rfl | rfl
    · exact ⟨_, _, packCommand_keyed, packPayload_ended, rfl, by simp⟩
    · exact ⟨_, _, unpackCommand_keyed, unpackSource_ended, rfl, fun _ => unpackCommand_rng s⟩
  obtain ⟨k, hended⟩ := hc.ended (s := s) hpayload
  obtain ⟨hcompleted, hhost, houtside⟩ := hended.frame
  refine ⟨command s, hexec, hcompleted, hhost, houtside, hc.key_of_keyed, hrng, fun hcode => ?_, fun hover => ?_⟩
  · obtain ⟨hout, hrng', hdraws⟩ := hended.noResult hcode
    rw [hout]
    exact ⟨rfl, rfl, rfl, rfl, hrng', hdraws⟩
  · rw [hc.of_over hover]
    exact ⟨rfl, rfl⟩

end Sys2Proof.Machine
end

section
/-! PROOFS. PACK once its key check has passed: the packed string byte by byte, its form, and the statements O41, O43
and O44 (43_pack.md R140, R147 to R155). -/

namespace Sys2Proof.Machine

/-! ### The packed string -/

theorem packedLength_even (l : Nat) : packedLength l % 2 = 0 := by
  have hdvd := padCount_dvd l
  rw [packedLength]
  omega

/-- The pad digit is `0` to `7`. -/
theorem hexChar_padCount (l : Nat) : hexChar (BitVec.ofNat 4 (padCount l)) = 0x30#8 + BitVec.ofNat 8 (padCount l) := by
  have hdigit : ∀ p < 8, hexChar (BitVec.ofNat 4 p) = 0x30#8 + BitVec.ofNat 8 p := by decide
  exact hdigit _ (padCount_lt l)

section
variable (rng : BitVec 16) (bits : Bits)

theorem packedString_pad : (packedString rng bits)[0]? = some (0x30#8 + BitVec.ofNat 8 (padCount bits.length)) :=
  congrArg some (hexChar_padCount bits.length)

theorem packedString_data {i : Nat} (hi : i < (bits.length + padCount bits.length) / 4) :
    (packedString rng bits)[1 + i]? =
      some (hexChar (nibbleAt (lfsrBits rng (padCount bits.length) ++ bits) i)) := by
  rw [packedString, dataNibbles_eq, Nat.add_comm 1 i, List.getElem?_cons_succ,
    List.getElem?_append_left (by simpa using hi)]
  simp [hi]

theorem packedString_checksum :
    (packedString rng bits)[(bits.length + padCount bits.length) / 4 + 1]? =
      some (hexChar (xorNibbles (dataNibbles rng bits))) := by
  have hlen : ((dataNibbles rng bits).map hexChar).length = (bits.length + padCount bits.length) / 4 := by
    simp [dataNibbles_eq]
  rw [packedString, List.getElem?_cons_succ, ← hlen, List.getElem?_concat_length]

end

/-- Every byte of a packed string is a digit. -/
theorem hexChar_of_mem_packedString {rng : BitVec 16} {bits : Bits} {c : Byte} (h : c ∈ packedString rng bits) :
    ∃ v, hexChar v = c := by
  rw [packedString, List.mem_cons, List.mem_append, List.mem_map, List.mem_singleton] at h
  rcases h with rfl | ⟨v, -, rfl⟩ | rfl
  · exact ⟨_, rfl⟩
  · exact ⟨v, rfl⟩
  · exact ⟨_, rfl⟩

theorem hexChar_range (v : Nibble) :
    (0x30#8 ≤ hexChar v ∧ hexChar v ≤ 0x39#8) ∨ (0x61#8 ≤ hexChar v ∧ hexChar v ≤ 0x66#8) := by
  have hv : v.toNat < 16 := v.isLt
  simp only [BitVec.le_def, toNat_hexChar, BitVec.reduceToNat]
  split <;> omega

/-! ### The result registers -/

theorem dstMax_of_paramsInRange {p : Params} (h : paramsInRange p = true) : 2 ≤ p.dstMax ∧ p.dstMax ≤ 16384 := by
  simp only [paramsInRange, Bool.and_eq_true, decide_eq_true_eq] at h
  exact ⟨h.1.2, h.2⟩

theorem toNat_packRegs_dstLen {p : Params} {l : Nat} (hp : paramsInRange p = true) (h : packedLength l ≤ p.dstMax) :
    (packRegs l).dstLen.toNat = packedLength l := by
  have hmax := (dstMax_of_paramsInRange hp).2
  exact Nat.mod_eq_of_lt (by omega)

theorem toNat_packRegs_pad (l : Nat) : (packRegs l).pad.toNat = padCount l := Nat.mod_eq_of_lt (padCount_lt l)

theorem resultBytes_packBits {bits : Bits} {s : State} (hp : paramsInRange s.cfg = true)
    (h : packedLength bits.length ≤ s.cfg.dstMax) : resultBytes (packBits bits s) = packedString s.rng bits := by
  have hlen := length_packedString s.rng bits
  rw [packBits_of_fits h]
  exact resultBytes_withResult _ _ (by omega) (by rw [toNat_packRegs_dstLen hp h, hlen])

/-! ### The course of PACK -/

theorem packPayload_of_error {s : State} {e : ErrCode}
    (h : tokenize s.key.ct s.cfg.dstMax (sourceBytes s) = .error e) : packPayload s = complete e (noResult s) := by
  rw [packPayload, h]
  rfl

theorem packPayload_of_ok {s : State} {bits : Bits}
    (h : tokenize s.key.ct s.cfg.dstMax (sourceBytes s) = .ok bits) : packPayload s = packBits bits s := by
  rw [packPayload, h]

theorem packBits_withKey_of_overflow {bits : Bits} {s : State} (k : KeyTables)
    (h : s.cfg.dstMax < packedLength bits.length) :
    packBits bits { s with key := k } = complete .capacityError (noResult { s with key := k }) :=
  if_pos h

theorem packBits_withKey_of_fits {bits : Bits} {s : State} (k : KeyTables)
    (h : packedLength bits.length ≤ s.cfg.dstMax) :
    packBits bits { s with key := k } = withResult (packedString s.rng bits) (packRegs bits.length)
      (lfsrAfter s.rng (padCount bits.length)) { s with key := k } :=
  packBits_of_fits (s := { s with key := k }) h

/-- A key check that passes leaves the state with the tables of a key. -/
theorem withKey_of_ensureKey {s s1 : State} (h : ensureKey s = (s1, none)) : ∃ k, s1 = { s with key := k } :=
  ⟨s1.key, by simpa [h] using ensureKey_fst s⟩

theorem exec_pack_of_ensureKey {s s1 : State} (hfit : s.srcLen.toNat ≤ s.cfg.srcMax) (h : ensureKey s = (s1, none)) :
    exec .pack s = .next (packPayload s1) := by
  rcases packCommand_cases s with ⟨hover, -⟩ | ⟨-, ⟨e, he, -⟩ | ⟨-, hs⟩⟩
  · omega
  · simp [h] at he
  · rw [h] at hs
    exact congrArg _ hs

/-- Settles O41: the error of the tokenizer, the overflow, and the packed string byte by byte. -/
theorem packWritesThePackedString : Obligations.PackWritesThePackedString := by
  refine ⟨fun s => rfl, by decide, fun s s1 hp hsrc hkey => ?_⟩
  have hexec := exec_pack_of_ensureKey hsrc hkey
  obtain ⟨k, rfl⟩ := withKey_of_ensureKey hkey
  refine ⟨fun e he => ⟨_, hexec, ?_⟩, fun bits hbits => ?_⟩
  · rw [packPayload_of_error he]
    exact failedWith_noResult e k s
  rw [packPayload_of_ok hbits] at hexec
  intro p K B v
  refine ⟨fun hover => ⟨_, hexec, ?_⟩, fun hroom => ?_⟩
  · rw [packBits_withKey_of_overflow k hover]
    exact failedWith_noResult .capacityError k s
  · have hlen : (packedString s.rng bits).length = K + 2 := length_packedString s.rng bits
    have hfit : (packedString s.rng bits).length ≤ s.cfg.dstMax := by omega
    have hdvd : (bits.length + p) % 8 = 0 := padCount_dvd bits.length
    rw [packBits_withKey_of_fits k hroom] at hexec
    obtain ⟨hcompleted, hhost, houtside⟩ :=
      withResult_frame (packRegs bits.length) (lfsrAfter s.rng (padCount bits.length)) k hfit
    refine ⟨_, hexec, hcompleted, hhost, rfl, hdvd, by omega, toNat_packRegs_dstLen hp hroom,
      toNat_packRegs_pad bits.length, rfl, rfl, rfl, ?_, fun i hi => ?_, ?_, fun i hbehind hi => ?_, houtside⟩
    · exact byteAt_withResult_of_getElem? (s := { s with key := k }) _ _ hfit (packedString_pad s.rng bits)
    · rw [Nat.add_assoc]
      exact byteAt_withResult_of_getElem? (s := { s with key := k }) _ _ hfit (packedString_data s.rng bits hi)
    · rw [Nat.add_assoc]
      have hchecksum := packedString_checksum s.rng bits
      rw [dataNibbles_eq] at hchecksum
      exact byteAt_withResult_of_getElem? (s := { s with key := k }) _ _ hfit hchecksum
    · exact byteAt_withResult_behind (s := { s with key := k }) _ _ hfit (by omega) hi

/-! ### The form of a result -/

theorem ensureKey_error_ne_ok {s : State} {e : ErrCode} (h : (ensureKey s).2 = some e) : e ≠ .ok := by
  rcases ensureKey_cases s with ⟨-, hs⟩ | ⟨-, hs⟩ | ⟨hnone, -⟩
  · simp [hs] at h
  · obtain rfl : ErrCode.notReady = e := by simpa [hs] using h
    decide
  · rcases ensureKey_of_none hnone with ⟨e', hfatal, hs, -⟩ | ⟨hs, -⟩
    · obtain rfl : e' = e := by simpa [hs] using h
      rintro rfl
      exact absurd hfatal (by decide)
    · simp [hs] at h

/-- A PACK that answers OK has written the packed string of code bits that fit. -/
theorem packCommand_of_ok {s : State} (h : (packCommand s).errCode = .ok) :
    ∃ k bits, packedLength bits.length ≤ s.cfg.dstMax ∧ packCommand s = packBits bits { s with key := k } := by
  rcases packCommand_cases s with ⟨-, hs⟩ | ⟨-, ⟨e, he, hs⟩ | ⟨-, hs⟩⟩
  · simp [hs] at h
  · rw [hs, complete_errCode] at h
    exact absurd h (ensureKey_error_ne_ok he)
  · rw [hs] at h
    rcases packPayload_cases (ensureKey s).1 with ⟨e, hpayload, hcode⟩ | ⟨bits, -, hfit, hpayload⟩
    · rw [hpayload, complete_errCode] at h
      subst h
      rcases hcode with htokens | hcapacity
      · simpa using tokenizeFrom_error _ _ _ _ _ htokens
      · cases hcapacity
    · rw [ensureKey_fst] at hfit hpayload
      exact ⟨_, bits, hfit, by rw [hs, ensureKey_fst, hpayload]⟩

/-- Settles O43: an OK result is a packed string. -/
theorem packedStringsAreFramed : Obligations.PackedStringsAreFramed := by
  refine ⟨toNat_hexChar, fun s => rfl, fun s hp => ⟨packCommand s, rfl, fun hok => ?_⟩⟩
  obtain ⟨k, bits, hfit, hs⟩ := packCommand_of_ok hok
  have hbytes : resultBytes (packCommand s) = packedString s.rng bits := by
    rw [hs]
    exact resultBytes_packBits hp hfit
  have hlen : (packCommand s).out.dstLen.toNat = packedLength bits.length := by
    rw [hs, packBits_withKey_of_fits k hfit]
    exact toNat_packRegs_dstLen hp hfit
  rw [hbytes, hlen]
  refine ⟨packedLength_even bits.length, Nat.le_add_left _ _, ⟨_, rfl, ?_⟩, fun c hc => ?_⟩
  · have hpad := padCount_lt bits.length
    rw [hexChar_padCount]
    constructor <;> bv_omega
  · obtain ⟨v, rfl⟩ := hexChar_of_mem_packedString hc
    exact hexChar_range v

/-- Settles O44: no byte of payload gives no code bit, so no pad bit and no data nibble. -/
theorem emptyPayloadPacksToTwoZeros : Obligations.EmptyPayloadPacksToTwoZeros := by
  intro s s1 hp hkey hempty
  have hexec := exec_pack_of_ensureKey (by simp [hempty]) hkey
  obtain ⟨k, rfl⟩ := withKey_of_ensureKey hkey
  have hsource : sourceBytes { s with key := k } = [] := by simp [sourceBytes, bytesAt, hempty]
  have hfit : packedLength ([] : Bits).length ≤ s.cfg.dstMax := (dstMax_of_paramsInRange hp).1
  rw [packPayload_of_ok (bits := []) (by rw [hsource]; rfl)] at hexec
  rw [packBits_withKey_of_fits k hfit] at hexec
  exact ⟨_, hexec, rfl, rfl, rfl, resultBytes_withResult _ _ hfit rfl, rfl⟩

end Sys2Proof.Machine
end

section
/-! PROOFS. The checks of a packed string: its format, its checksum, and what a changed digit does to them
(44_unpack.md R164, R165, R171). -/

namespace Sys2Proof.Machine

/-! ### The checksum -/

@[simp] theorem xorNibbles_cons (v : Nibble) (vs : List Nibble) : xorNibbles (v :: vs) = v ^^^ xorNibbles vs := rfl

theorem xorNibbles_concat (vs : List Nibble) (x : Nibble) : xorNibbles (vs ++ [x]) = xorNibbles vs ^^^ x := by
  induction vs with
  | nil => simp [xorNibbles]
  | cons v vs ih => rw [List.cons_append, xorNibbles_cons, ih, xorNibbles_cons, BitVec.xor_assoc]

/-- A replaced nibble changes the XOR by its difference from the old one. -/
theorem xorNibbles_set {v w : Nibble} : ∀ {vs : List Nibble} {i : Nat}, vs[i]? = some w →
    xorNibbles (vs.set i v) = v ^^^ w ^^^ xorNibbles vs
  | u :: vs, 0, h => by
    obtain rfl : u = w := Option.some.inj h
    rw [List.set_cons_zero, xorNibbles_cons, xorNibbles_cons, BitVec.xor_assoc, ← BitVec.xor_assoc u,
      BitVec.xor_self, BitVec.zero_xor]
  | u :: vs, i + 1, h => by
    rw [List.set_cons_succ, xorNibbles_cons, xorNibbles_set (by simpa using h), xorNibbles_cons]
    ac_rfl

theorem checkSum_concat (pad : Nat) (vs : List Nibble) (x : Nibble) :
    checkSum pad (vs ++ [x]) = if xorNibbles vs = x then .ok ⟨pad, vs⟩ else .error .checksumError := by
  rw [checkSum, List.dropLast_concat, List.getLast?_concat, Option.getD_some]

/-- The comparison passes exactly when all digits, the checksum among them, XOR to 0. -/
theorem checkSum_eq (pad : Nat) (vs : List Nibble) :
    checkSum pad vs = if xorNibbles vs = 0#4 then .ok ⟨pad, vs.dropLast⟩ else .error .checksumError := by
  rcases List.eq_nil_or_concat vs with rfl | ⟨vs, x, rfl⟩
  · rfl
  · simp only [List.concat_eq_append, checkSum_concat, xorNibbles_concat, BitVec.xor_eq_zero_iff,
      List.dropLast_concat]

/-! ### The format -/

/-- The format of 44_unpack.md R164: an even length above 2, a pad digit `0` to `7`, and the digits `vs` behind it. -/
structure GoodFormat (c : Byte) (cs : List Byte) (vs : List Nibble) : Prop where
  long : 2 < (c :: cs).length
  even : (c :: cs).length % 2 = 0
  padLow : 0x30#8 ≤ c
  padHigh : c ≤ 0x37#8
  digits : hexVals cs = some vs

/-- The checks refuse a string, or its format is good. -/
theorem checkFrame_cases (source : List Byte) : checkFrame source = .error .formatError ∨
    ∃ c cs vs, source = c :: cs ∧ GoodFormat c cs vs := by
  cases source with
  | nil => exact .inl rfl
  | cons c cs =>
    rw [checkFrame]
    split
    next => exact .inl rfl
    next hlen =>
      split
      next => exact .inl rfl
      next hpad =>
        rw [not_or, BitVec.not_lt, BitVec.not_lt] at hpad
        cases hdigits : hexVals cs with
        | none => exact .inl rfl
        | some vs => exact .inr ⟨c, cs, vs, rfl, by omega, by omega, hpad.1, hpad.2, hdigits⟩

namespace GoodFormat

variable {c : Byte} {cs : List Byte} {vs : List Nibble}

/-- A string of a good format is left to the checksum. -/
theorem checkFrame_eq (h : GoodFormat c cs vs) : checkFrame (c :: cs) = checkSum (c.toNat - 0x30) vs := by
  obtain ⟨hlong, heven, hlow, hhigh, hdigits⟩ := h
  have hpad : (c - 0x30#8).toNat = c.toNat - 0x30 := BitVec.toNat_sub_of_le hlow
  rw [checkFrame, if_neg (by omega), if_neg (by rw [not_or, BitVec.not_lt, BitVec.not_lt]; exact ⟨hlow, hhigh⟩),
    hdigits]
  simp only [hpad]

theorem hexVal_ne_none (h : GoodFormat c cs vs) {b : Byte} (hb : b ∈ cs) : hexVal b ≠ none :=
  Option.isSome_iff_ne_none.mp ((hexVals_isSome_iff cs).mp (by rw [h.digits, Option.isSome_some]) b hb)

/-- A later byte may be replaced by any hex digit. -/
theorem set (h : GoodFormat c cs vs) {x : Byte} {v : Nibble} (hx : hexVal x = some v) (i : Nat) :
    GoodFormat c (cs.set i x) (vs.set i v) where
  long := by simpa using h.long
  even := by simpa using h.even
  padLow := h.padLow
  padHigh := h.padHigh
  digits := by
    have hdigits := (hexVals_eq_some_iff cs vs).mp h.digits
    rw [hexVals_eq_some_iff, List.map_set, List.map_set, hdigits, hx]

end GoodFormat

/-- A string of a bad length, pad digit or later digit is refused. -/
theorem checkFrame_formatError {source : List Byte}
    (h : source.length ≤ 2 ∨ source.length % 2 = 1 ∨
      (∃ c, source.head? = some c ∧ (c < 0x30#8 ∨ 0x37#8 < c)) ∨ (∃ c ∈ source.tail, hexVal c = none)) :
    checkFrame source = .error .formatError := by
  refine (checkFrame_cases source).resolve_right ?_
  rintro ⟨c, cs, vs, rfl, hgood⟩
  have hlong := hgood.long
  have heven := hgood.even
  rcases h with hshort | hodd | ⟨_, hc, hpad⟩ | ⟨b, hb, hnone⟩
  · omega
  · omega
  · obtain rfl := Option.some.inj hc
    rcases hpad with hlow | hhigh
    · exact BitVec.not_lt.mpr hgood.padLow hlow
    · exact BitVec.not_lt.mpr hgood.padHigh hhigh
  · exact hgood.hexVal_ne_none hb hnone

/-- A string that passes its checks has a good format, and its digits XOR to 0. -/
theorem goodFormat_of_checkFrame {c : Byte} {cs : List Byte} {f : Frame} (h : checkFrame (c :: cs) = .ok f) :
    ∃ vs, GoodFormat c cs vs ∧ xorNibbles vs = 0#4 := by
  rcases checkFrame_cases (c :: cs) with hbad | ⟨_, _, vs, heq, hgood⟩
  · cases hbad.symm.trans h
  · obtain ⟨rfl, rfl⟩ := List.cons.inj heq
    rw [hgood.checkFrame_eq, checkSum_eq] at h
    exact ⟨vs, hgood, Decidable.byContradiction fun hsum => by simp [hsum] at h⟩

section
variable {c : Byte} {cs : List Byte} {f : Frame} {i : Nat} {x : Byte}

theorem checkFrame_set_formatError (hi : i < cs.length) (hx : hexVal x = none) :
    checkFrame (c :: cs.set i x) = .error .formatError :=
  checkFrame_formatError (.inr (.inr (.inr ⟨x, List.mem_set hi x, hx⟩)))

/-- A digit of another value makes the XOR of the digits the difference of the two values. -/
theorem checkFrame_set_checksumError {v : Nibble} (h : checkFrame (c :: cs) = .ok f) (hi : i < cs.length)
    (hx : hexVal x = some v) (hne : (cs[i]?.bind hexVal) ≠ some v) :
    checkFrame (c :: cs.set i x) = .error .checksumError := by
  obtain ⟨vs, hgood, hsum⟩ := goodFormat_of_checkFrame h
  rw [getElem?_of_hexVals hgood.digits] at hne
  have hi' : i < vs.length := by rwa [length_of_hexVals hgood.digits]
  have hset : xorNibbles (vs.set i v) ≠ 0#4 := by
    rw [xorNibbles_set (List.getElem?_eq_getElem hi'), hsum, BitVec.xor_zero, Ne, BitVec.xor_eq_zero_iff]
    rintro rfl
    exact hne (List.getElem?_eq_getElem hi')
  rw [(hgood.set hx i).checkFrame_eq, checkSum_eq, if_neg hset]

end

end Sys2Proof.Machine
end

section
/-! PROOFS. UNPACK once its key check has passed, as far as the checks: the statements O48, O49, O50 and O53
(44_unpack.md R160, R163 to R165, R170, R171). -/

namespace Sys2Proof.Machine

/-! ### The course of UNPACK -/

section
variable {s : State}

theorem unpackSource_of_emptyPacket (h : sourceBytes s = emptyPacket) :
    unpackSource s = withResult [] ResultRegs.absent s.rng s := by
  rw [unpackSource, if_pos h]
  rfl

theorem unpackSource_of_error {e : ErrCode} (hsource : sourceBytes s ≠ emptyPacket)
    (h : checkFrame (sourceBytes s) = .error e) : unpackSource s = complete e (noResult s) := by
  rw [unpackSource, if_neg hsource, h]
  rfl

theorem unpackSource_of_ok {f : Frame} (hsource : sourceBytes s ≠ emptyPacket)
    (h : checkFrame (sourceBytes s) = .ok f) : unpackSource s = unpackFrame f s := by
  rw [unpackSource, if_neg hsource, h]

theorem unpackFrame_of_error {f : Frame} {e : ErrCode} (h : walk s.key s.cfg.dstMax (frameBits f) = .error e) :
    unpackFrame f s = complete e (noResult s) := by
  rw [unpackFrame, h]
  rfl

theorem unpackFrame_of_ok {f : Frame} {w : WalkResult} (h : walk s.key s.cfg.dstMax (frameBits f) = .ok w) :
    unpackFrame f s = withResult w.output (unpackRegs f.pad w) s.rng s := by
  rw [unpackFrame, h]
  rfl

end

section
variable {s s1 : State}

theorem exec_unpack_of_ensureKey (hfit : s.srcLen.toNat ≤ s.cfg.srcMax) (h : ensureKey s = (s1, none)) :
    exec .unpack s = .next (unpackSource s1) := by
  rcases unpackCommand_cases s with ⟨hover, -⟩ | ⟨-, ⟨e, he, -⟩ | ⟨-, hs⟩⟩
  · omega
  · simp [h] at he
  · rw [h] at hs
    exact congrArg _ hs

/-- What the checks raise is what UNPACK answers, once its key check has passed (44_unpack.md R170). -/
theorem unpack_failedWith_of_checkFrame {e : ErrCode} (hkey : ensureKey s = (s1, none))
    (hfit : s.srcLen.toNat ≤ s.cfg.srcMax) (hsource : sourceBytes s ≠ emptyPacket)
    (h : checkFrame (sourceBytes s) = .error e) : ∃ t, exec .unpack s = .next t ∧ FailedWith e s1.key s t := by
  have hexec := exec_unpack_of_ensureKey hfit hkey
  obtain ⟨k, rfl⟩ := withKey_of_ensureKey hkey
  rw [unpackSource_of_error (s := { s with key := k }) hsource h] at hexec
  exact ⟨_, hexec, failedWith_noResult e k s⟩

/-- A string that passes its checks is walked, once the key check has passed. -/
theorem exec_unpack_of_checkFrame {f : Frame} (hkey : ensureKey s = (s1, none))
    (hfit : s.srcLen.toNat ≤ s.cfg.srcMax) (hsource : sourceBytes s ≠ emptyPacket)
    (h : checkFrame (sourceBytes s) = .ok f) : exec .unpack s = .next (unpackFrame f s1) := by
  have hexec := exec_unpack_of_ensureKey hfit hkey
  obtain ⟨k, rfl⟩ := withKey_of_ensureKey hkey
  rwa [unpackSource_of_ok (s := { s with key := k }) hsource h] at hexec

end

theorem ne_emptyPacket_of_long {source : List Byte} (h : 2 < source.length) : source ≠ emptyPacket := by
  rintro rfl
  exact absurd h (by decide)

/-! ### The statements -/

/-- Settles O48: the empty packet comes before the checks. -/
theorem emptyPacketUnpacksToNothing : Obligations.EmptyPacketUnpacksToNothing := by
  intro s s1 hkey hfit hsource
  have hexec := exec_unpack_of_ensureKey hfit hkey
  obtain ⟨k, rfl⟩ := withKey_of_ensureKey hkey
  rw [unpackSource_of_emptyPacket (s := { s with key := k }) hsource] at hexec
  obtain ⟨hcompleted, hhost, houtside⟩ :=
    withResult_frame (bytes := []) ResultRegs.absent s.rng k (Nat.zero_le s.cfg.dstMax)
  exact ⟨_, hexec, hcompleted, hhost, rfl, rfl, rfl, rfl, rfl, rfl, houtside⟩

/-- Settles O49: each bad format is refused by the checks. -/
theorem unpackRefusesBadFormats : Obligations.UnpackRefusesBadFormats := by
  intro s s1 hkey hfit hsource hbad
  obtain ⟨t, hexec, hfailed⟩ := unpack_failedWith_of_checkFrame hkey hfit hsource (checkFrame_formatError hbad)
  exact ⟨t, hexec, hfailed.completed, hfailed.hostSide, hfailed.key, hfailed.rng, hfailed.out, hfailed.outside⟩

/-- Settles O50: a good format is left to the checksum. -/
theorem unpackRefusesBadChecksums : Obligations.UnpackRefusesBadChecksums := by
  intro s s1 c cs vs x hkey hfit hsource hlong heven hlow hhigh hdigits hsum
  have hgood : GoodFormat c cs (vs ++ [x]) := ⟨hlong, heven, hlow, hhigh, hdigits⟩
  have hcheck : checkFrame (sourceBytes s) = .error .checksumError := by
    rw [hsource, hgood.checkFrame_eq, checkSum_concat]
    exact if_neg hsum
  obtain ⟨t, hexec, hfailed⟩ :=
    unpack_failedWith_of_checkFrame hkey hfit (hsource ▸ ne_emptyPacket_of_long hlong) hcheck
  exact ⟨t, hexec, hfailed.completed, hfailed.hostSide, hfailed.key, hfailed.rng, hfailed.out, hfailed.outside⟩

/-- Settles O53: the digits of a good string XOR to 0, and no longer once one of them has another value. -/
theorem checksumDetectsOneChangedDigit : Obligations.ChecksumDetectsOneChangedDigit :=
  ⟨fun _ _ _ hkey hfit hsource h => unpack_failedWith_of_checkFrame hkey hfit hsource h,
    fun _ _ _ _ _ h hi =>
      ⟨checkFrame_set_formatError hi, fun _ hx hne => checkFrame_set_checksumError h hi hx hne⟩⟩

end Sys2Proof.Machine
end

section
/-! PROOFS. The walk along a path of the tree, and the statement O52 (44_unpack.md R167 to R169). -/

namespace Sys2Proof.Machine

section
variable {k : KeyTables} {dstMax d : Nat} {out : List Byte} {rest : Bits}

/-! ### One edge of a path -/

/-- A path of one bit or more goes through a child, which is an internal node unless the path ends there. -/
theorem reach_cons_some {pool : List Node} {n i : Nat} {b : Bool} {bs : Bits} (h : reach pool n (b :: bs) = some i) :
    ∃ m, childOf (nodeAt pool n) b = some m ∧ reach pool m bs = some i := by
  cases hchild : childOf (nodeAt pool n) b with
  | none => simp [reach, hchild] at h
  | some m => exact ⟨m, rfl, by simpa [reach, hchild] using h⟩

theorem internal_of_childOf {node : Node} {b : Bool} {m : Nat} (h : childOf node b = some m) :
    ∃ w l r, node = .internal w l r := by
  cases node with
  | empty | leaf w dix => simp [childOf] at h
  | internal w l r => exact ⟨w, l, r, rfl⟩

theorem walkFrom_internal {n m : Nat} {b : Bool} (hchild : childOf (nodeAt k.pool n) b = some m)
    (hm : ∃ w l r, nodeAt k.pool m = .internal w l r) :
    walkFrom k dstMax n d out (b :: rest) = walkFrom k dstMax m (d + 1) out rest := by
  obtain ⟨w, l, r, hnode⟩ := hm
  simp only [walkFrom, hchild, hnode]

theorem walkFrom_leaf {n m dix : Nat} {b : Bool} {w : Word} (hchild : childOf (nodeAt k.pool n) b = some m)
    (hm : nodeAt k.pool m = .leaf w dix) :
    walkFrom k dstMax n d out (b :: rest) =
      if dstMax < out.length + (dictAt k.dict dix).expr.length then .error .capacityError
      else walkFrom k dstMax k.root 0 (out ++ (dictAt k.dict dix).expr) rest := by
  simp only [walkFrom, hchild, hm]

/-! ### Whole paths -/

/-- The bits of a path to an internal node are counted and put out nothing (44_unpack.md R168). -/
theorem walkFrom_path {i : Nat} (hi : ∃ w l r, nodeAt k.pool i = .internal w l r) : ∀ {path : Bits} {n d : Nat},
    reach k.pool n path = some i → walkFrom k dstMax n d out path = .ok ⟨out, d + path.length⟩
  | [], _, _, _ => rfl
  | b :: bs, n, d, h => by
    obtain ⟨m, hchild, hreach⟩ := reach_cons_some h
    have hm : ∃ w l r, nodeAt k.pool m = .internal w l r := by
      cases bs with
      | nil => exact Option.some.inj hreach ▸ hi
      | cons b' bs' =>
        obtain ⟨_, hchild', -⟩ := reach_cons_some hreach
        exact internal_of_childOf hchild'
    rw [walkFrom_internal hchild hm, walkFrom_path hi hreach, List.length_cons, Nat.add_right_comm, Nat.add_assoc]

/-- The bits of a path to a leaf are read as its expression, if that fits, and the walk goes on from ROOT. -/
theorem walkFrom_leadsToLeaf {expr : List Byte} : ∀ {path : Bits} {n d : Nat}, path ≠ [] →
    LeadsToLeaf k.pool k.dict n path expr →
    walkFrom k dstMax n d out (path ++ rest) =
      if dstMax < out.length + expr.length then .error .capacityError
      else walkFrom k dstMax k.root 0 (out ++ expr) rest
  | [b], n, d, _, ⟨i, w, dix, hreach, hi, hexpr⟩ => by
    obtain ⟨m, hchild, hm⟩ := reach_cons_some hreach
    obtain rfl := Option.some.inj hm
    rw [List.singleton_append, walkFrom_leaf hchild hi, hexpr]
  | b :: b' :: bs, n, d, _, ⟨i, w, dix, hreach, hi, hexpr⟩ => by
    obtain ⟨m, hchild, hreach'⟩ := reach_cons_some hreach
    obtain ⟨_, hchild', -⟩ := reach_cons_some hreach'
    rw [List.cons_append, walkFrom_internal hchild (internal_of_childOf hchild'),
      walkFrom_leadsToLeaf (List.cons_ne_nil b' bs) ⟨i, w, dix, hreach', hi, hexpr⟩]

/-! ### Whole codes -/

/-- A code is read as its expression (44_unpack.md R167, R169). -/
theorem walkFrom_code (hk : TablesAgree k) {e : CodeEntry} (he : e ∈ k.ct) :
    walkFrom k dstMax k.root d out (e.code ++ rest) =
      if dstMax < out.length + e.expr.length then .error .capacityError
      else walkFrom k dstMax k.root 0 (out ++ e.expr) rest :=
  walkFrom_leadsToLeaf (List.length_pos_iff.mp (hk.sizes e he).1) (hk.codes e he)

/-- Codes whose expressions fit are read one after another. -/
theorem walkFrom_codes (hk : TablesAgree k) : ∀ {tokens : List CodeEntry} {out : List Byte}, (∀ e ∈ tokens, e ∈ k.ct) →
    out.length + (tokens.flatMap CodeEntry.expr).length ≤ dstMax →
    walkFrom k dstMax k.root 0 out (tokens.flatMap CodeEntry.code ++ rest) =
      walkFrom k dstMax k.root 0 (out ++ tokens.flatMap CodeEntry.expr) rest
  | [], _, _, _ => by simp
  | e :: tokens, out, hin, hfit => by
    obtain ⟨he, hin⟩ := List.forall_mem_cons.mp hin
    simp only [List.flatMap_cons, List.length_append, List.append_assoc] at hfit ⊢
    rw [walkFrom_code hk he, if_neg (by omega), walkFrom_codes hk hin (by rw [List.length_append]; omega),
      List.append_assoc]

/-- Codes whose expressions do not all fit end the walk at the first that does not. -/
theorem walkFrom_codes_overflow (hk : TablesAgree k) : ∀ {tokens : List CodeEntry} {out : List Byte},
    (∀ e ∈ tokens, e ∈ k.ct) → out.length ≤ dstMax → dstMax < out.length + (tokens.flatMap CodeEntry.expr).length →
    walkFrom k dstMax k.root 0 out (tokens.flatMap CodeEntry.code ++ rest) = .error .capacityError
  | [], _, _, hout, hover => absurd hover (Nat.not_lt.mpr hout)
  | e :: tokens, out, hin, hout, hover => by
    obtain ⟨he, hin⟩ := List.forall_mem_cons.mp hin
    simp only [List.flatMap_cons, List.length_append, List.append_assoc] at hover ⊢
    rw [walkFrom_code hk he]
    split
    next => rfl
    next hfit =>
      have hout' : (out ++ e.expr).length ≤ dstMax := by rw [List.length_append]; omega
      exact walkFrom_codes_overflow hk hin hout' (by rw [List.length_append]; omega)

end

/-- Codes whose expressions fit walk to these expressions, and the bits of an unfinished path behind them are
counted. -/
theorem walk_codes_path {k : KeyTables} {dstMax i : Nat} {tokens : List CodeEntry} {rest : Bits} (hk : TablesAgree k)
    (hin : ∀ e ∈ tokens, e ∈ k.ct) (hfit : (tokens.flatMap CodeEntry.expr).length ≤ dstMax)
    (hreach : reach k.pool k.root rest = some i) (hi : ∃ w l r, nodeAt k.pool i = .internal w l r) :
    walk k dstMax (tokens.flatMap CodeEntry.code ++ rest) = .ok ⟨tokens.flatMap CodeEntry.expr, rest.length⟩ := by
  rw [walk, walkFrom_codes hk hin (by simpa using hfit), walkFrom_path hi hreach, List.nil_append, Nat.zero_add]

/-- Settles O52: the codes one after another, then the unfinished path. -/
theorem walkDecodesCodesAndCountsTrailingBits : Obligations.WalkDecodesCodesAndCountsTrailingBits := by
  refine fun k dstMax tokens hk hin => ⟨fun rest i w l r hfit hreach hi => ⟨?_, ?_⟩, fun rest hover => ?_⟩
  · exact walk_codes_path hk hin hfit hreach ⟨w, l, r, hi⟩
  · exact Nat.le_of_lt_succ (hk.depth rest i w l r hreach hi)
  · exact walkFrom_codes_overflow hk hin (Nat.zero_le _) (by simpa using hover)

end Sys2Proof.Machine
end

section
/-! PROOFS. UNPACK of a string that passes its checks, and of a packed string: the statements O51 and O54
(44_unpack.md R160, R166, R168 to R171). -/

namespace Sys2Proof.Machine

/-! ### The code bits -/

theorem bitsOf_eq_flatMap (vs : List Nibble) : bitsOf vs = vs.flatMap bits4 := by
  induction vs with
  | nil => rfl
  | cons v vs ih => rw [bitsOf, ih, List.flatMap_cons]

theorem bits4_nibbleOf (b3 b2 b1 b0 : Bool) : bits4 (nibbleOf b3 b2 b1 b0) = [b3, b2, b1, b0] := by
  obtain ⟨h3, h2, h1, h0⟩ := nibbleOf_getLsbD b3 b2 b1 b0
  rw [bits4, h3, h2, h1, h0]

/-- The bits of the nibbles of a bit string are its bits, if it is whole nibbles. -/
theorem bitsOf_nibblesOf : ∀ {B : Bits}, B.length % 4 = 0 → bitsOf (nibblesOf B) = B
  | b3 :: b2 :: b1 :: b0 :: B, h => by
    have hB : B.length % 4 = 0 := by
      simp only [List.length_cons] at h
      omega
    rw [nibblesOf, bitsOf, bits4_nibbleOf, bitsOf_nibblesOf hB]
    rfl
  | [], _ => rfl
  | [_], h | [_, _], h | [_, _, _], h => by simp at h

/-- Without the pad bits the data nibbles are the code bits (44_unpack.md R166). -/
theorem frameBits_dataNibbles (rng : BitVec 16) (bits : Bits) :
    frameBits ⟨padCount bits.length, dataNibbles rng bits⟩ = bits := by
  have hwhole : (lfsrBits rng (padCount bits.length) ++ bits).length % 4 = 0 := by
    have hdvd := padCount_dvd bits.length
    rw [List.length_append, length_lfsrBits]
    omega
  simp only [frameBits, dataNibbles, bitsOf_nibblesOf hwhole]
  exact List.drop_left' (length_lfsrBits rng _)

/-! ### UNPACK of a string that passes its checks -/

/-- A walk's output fits in the result registers. -/
theorem length_output_of_walk {k : KeyTables} {p : Params} {bits : Bits} {w : WalkResult} (pad : Nat)
    (hp : paramsInRange p = true) (h : walk k p.dstMax bits = .ok w) :
    w.output.length ≤ p.dstMax ∧ (unpackRegs pad w).dstLen.toNat = w.output.length := by
  have hfit : w.output.length ≤ p.dstMax := length_output_of_walkFrom h (Nat.zero_le _)
  have hmax := (dstMax_of_paramsInRange hp).2
  exact ⟨hfit, Nat.mod_eq_of_lt (by omega)⟩

/-- Settles O51: a string of a good format whose sum is its last digit is left to the walk. -/
theorem unpackWritesTheWalk : Obligations.UnpackWritesTheWalk := by
  refine ⟨fun s => ⟨rfl, rfl⟩, hexVals_eq_some_iff, fun v => rfl, ?_⟩
  intro s s1 c cs vs x hp hkey hfit hsource hlong heven hlow hhigh hdigits hsum
  have hgood : GoodFormat c cs (vs ++ [x]) := ⟨hlong, heven, hlow, hhigh, hdigits⟩
  have hcheck : checkFrame (sourceBytes s) = .ok ⟨c.toNat - 0x30, vs⟩ := by
    rw [hsource, hgood.checkFrame_eq, checkSum_concat]
    exact if_pos hsum
  have hexec := exec_unpack_of_checkFrame hkey hfit (hsource ▸ ne_emptyPacket_of_long hlong) hcheck
  obtain ⟨k, rfl⟩ := withKey_of_ensureKey hkey
  rw [← bitsOf_eq_flatMap]
  refine ⟨fun e he => ⟨_, hexec, ?_⟩, fun w hw => ⟨_, hexec, ?_⟩⟩
  · rw [unpackFrame_of_error (f := ⟨c.toNat - 0x30, vs⟩) (s := { s with key := k }) he]
    exact failedWith_noResult e k s
  · have hpad : c.toNat - 0x30 < 2 ^ 3 := by bv_omega
    obtain ⟨hlen, hdstLen⟩ := length_output_of_walk (c.toNat - 0x30) hp hw
    obtain ⟨hcompleted, hhost, houtside⟩ := withResult_frame (unpackRegs (c.toNat - 0x30) w) s.rng k hlen
    rw [unpackFrame_of_ok (f := ⟨c.toNat - 0x30, vs⟩) (s := { s with key := k }) hw]
    exact ⟨hcompleted, hhost, rfl, rfl, hdstLen, resultBytes_withResult (s := { s with key := k }) _ _ hlen hdstLen,
      Nat.mod_eq_of_lt hpad, rfl, rfl,
      fun i hbehind hi => byteAt_withResult_behind (s := { s with key := k }) _ _ hlen hbehind hi, houtside⟩

/-! ### UNPACK of a packed string -/

theorem hexVal_hexChar (v : Nibble) : hexVal (hexChar v) = some v := by
  revert v
  decide

/-- The packed string of some code bits has a good format. -/
theorem goodFormat_packedString (rng : BitVec 16) {bits : Bits} (hbits : bits ≠ []) :
    GoodFormat (hexChar (BitVec.ofNat 4 (padCount bits.length)))
      ((dataNibbles rng bits).map hexChar ++ [hexChar (xorNibbles (dataNibbles rng bits))])
      (dataNibbles rng bits ++ [xorNibbles (dataNibbles rng bits)]) where
  long := by
    have hpos := List.length_pos_iff.mpr hbits
    have hdvd := padCount_dvd bits.length
    rw [← packedString, length_packedString, packedLength]
    omega
  even := by rw [← packedString, length_packedString, packedLength_even]
  padLow := by
    have hpad := padCount_lt bits.length
    rw [hexChar_padCount]
    bv_omega
  padHigh := by
    have hpad := padCount_lt bits.length
    rw [hexChar_padCount]
    bv_omega
  digits := by
    rw [hexVals_eq_some_iff]
    simp [hexVal_hexChar]

/-- The packed string of some code bits passes the checks with its pad count and its data nibbles. -/
theorem checkFrame_packedString (rng : BitVec 16) {bits : Bits} (hbits : bits ≠ []) :
    checkFrame (packedString rng bits) = .ok ⟨padCount bits.length, dataNibbles rng bits⟩ := by
  have hpad : (hexChar (BitVec.ofNat 4 (padCount bits.length))).toNat - 0x30 = padCount bits.length := by
    have hlt := padCount_lt bits.length
    rw [hexChar_padCount]
    bv_omega
  rw [packedString, (goodFormat_packedString rng hbits).checkFrame_eq, hpad, checkSum_concat, if_pos rfl]

/-- UNPACK of the packed string of code bits walks these bits, whatever the pad bits. -/
theorem unpackSource_packedString {s : State} {rng : BitVec 16} {bits : Bits} {w : WalkResult}
    (hsource : sourceBytes s = packedString rng bits) (hwalk : walk s.key s.cfg.dstMax bits = .ok w) :
    unpackSource s = withResult w.output (unpackRegs (padCount bits.length) w) s.rng s := by
  by_cases hbits : bits = []
  · subst hbits
    obtain rfl := Except.ok.inj hwalk
    exact unpackSource_of_emptyPacket hsource
  · have hcheck := checkFrame_packedString rng hbits
    have hlong := (goodFormat_packedString rng hbits).long
    rw [← hsource] at hcheck
    rw [← packedString, ← hsource] at hlong
    rw [unpackSource_of_ok (ne_emptyPacket_of_long hlong) hcheck]
    exact unpackFrame_of_ok (by rwa [frameBits_dataNibbles])

/-! ### The round trip -/

/-- A key check that passes leaves a VALID key. -/
theorem keyState_of_ensureKey {s s1 : State} (h : ensureKey s = (s1, none)) : s1.key.state = .valid := by
  rcases ensureKey_cases s with ⟨hvalid, hs⟩ | ⟨-, hs⟩ | ⟨-, hs, ⟨hvalid, -⟩ | ⟨e, -, -, he⟩⟩
  · obtain ⟨rfl, -⟩ := Prod.mk.inj (hs.symm.trans h)
    exact hvalid
  · cases hs.symm.trans h
  · rw [h] at hs
    obtain rfl : s1 = _ := hs
    exact hvalid
  · simp [h] at he

theorem ensureKey_of_valid {s : State} (h : s.key.state = .valid) : ensureKey s = (s, none) := by
  rw [ensureKey, h]

/-- Every change of the key tables to a VALID key gives tables that agree. -/
theorem KeyNext.tablesAgree {p : Params} {k k' : KeyTables} (h : KeyNext p k k')
    (hk : k.state = .valid → TablesAgree k) (hvalid : k'.state = .valid) : TablesAgree k' := by
  rcases h with rfl | rfl | ⟨text, implicit, rfl⟩
  · exact hk hvalid
  · cases hvalid
  · exact installedTablesAgree p text implicit k hvalid

theorem packPayload_tokens_of_ok {s : State} (h : (packPayload s).errCode = .ok) :
    ∃ bits, tokenize s.key.ct s.cfg.dstMax (sourceBytes s) = .ok bits ∧ packedLength bits.length ≤ s.cfg.dstMax ∧
      packPayload s = packBits bits s := by
  refine (packPayload_cases s).resolve_left ?_
  rintro ⟨e, hs, hcode⟩
  obtain rfl : e = .ok := by simpa [hs] using h
  rcases hcode with htokens | hcapacity
  · simpa using tokenizeFrom_error _ _ _ _ _ htokens
  · cases hcapacity

/-- A PACK that answers OK has passed its key check. -/
theorem packCommand_payload_of_ok {s : State} (h : (packCommand s).errCode = .ok) :
    ∃ k, ensureKey s = ({ s with key := k }, none) ∧ packCommand s = packPayload { s with key := k } := by
  rcases packCommand_cases s with ⟨-, hs⟩ | ⟨-, ⟨e, he, hs⟩ | ⟨he, hs⟩⟩
  · simp [hs] at h
  · exact absurd (by simpa [hs] using h) (ensureKey_error_ne_ok he)
  · exact ⟨_, Prod.ext (ensureKey_fst s) he, by rw [hs, ← ensureKey_fst]⟩

/-- A PACK that answers OK has written the packed string of its payload's code bits. -/
theorem packCommand_tokens_of_ok {s : State} (h : (packCommand s).errCode = .ok) :
    ∃ k bits, ensureKey s = ({ s with key := k }, none) ∧
      tokenize k.ct s.cfg.dstMax (sourceBytes s) = .ok bits ∧ packedLength bits.length ≤ s.cfg.dstMax ∧
      packCommand s = withResult (packedString s.rng bits) (packRegs bits.length)
        (lfsrAfter s.rng (padCount bits.length)) { s with key := k } := by
  obtain ⟨k, hkey, hs⟩ := packCommand_payload_of_ok h
  obtain ⟨bits, htokens, hfit, hpayload⟩ := packPayload_tokens_of_ok (hs ▸ h)
  exact ⟨k, bits, hkey, htokens, hfit, by rw [hs, hpayload, packBits_withKey_of_fits k hfit]⟩

/-- Under tables that agree, the bits of a payload that fits walk to the payload, with no trailing bits. -/
theorem walk_of_tokenize {k : KeyTables} {dstMax : Nat} {payload : List Byte} {bits : Bits} (hk : TablesAgree k)
    (hfit : payload.length ≤ dstMax) (h : tokenize k.ct dstMax payload = .ok bits) :
    walk k dstMax bits = .ok ⟨payload, 0⟩ := by
  obtain ⟨tokens, hin, rfl, rfl, -, -⟩ := (tokenizerSplitsThePayload k.ct dstMax payload).1 bits |>.mp h
  simpa using walk_codes_path (rest := []) hk hin hfit rfl hk.rootInternal

theorem length_sourceBytes (s : State) : (sourceBytes s).length = s.srcLen.toNat := by simp [sourceBytes, bytesAt]

/-- Settles O54: the code bits of the payload walk back to the payload. -/
theorem unpackOfPackReturnsThePayload : Obligations.UnpackOfPackReturnsThePayload := by
  intro s t u hp hagree hfit hpack hok hcfg hukey _ husrc hsource
  have ht : packCommand s = t := Host.Outcome.next.inj hpack
  obtain ⟨k, bits, hkey, htokens, hroom, hs⟩ := packCommand_tokens_of_ok (ht ▸ hok)
  obtain rfl := hs.symm.trans ht
  have hvalid : k.state = .valid := keyState_of_ensureKey hkey
  have hukey : u.key = k := hukey
  have hwalk : walk u.key u.cfg.dstMax bits = .ok ⟨sourceBytes s, 0⟩ := by
    rw [hukey, hcfg]
    exact walk_of_tokenize ((exec_keyNext hpack).tablesAgree hagree hvalid) (by rwa [length_sourceBytes]) htokens
  have hstring : sourceBytes u = packedString s.rng bits := by
    have hlen := length_packedString s.rng bits
    rw [hsource]
    exact resultBytes_withResult (s := { s with key := k }) _ _ (by rwa [hlen])
      (by rw [toNat_packRegs_dstLen hp hroom, hlen])
  have hexec := exec_unpack_of_ensureKey husrc (ensureKey_of_valid (hukey ▸ hvalid))
  rw [unpackSource_packedString hstring hwalk] at hexec
  obtain ⟨hout, hdstLen⟩ := length_output_of_walk (padCount bits.length) (hcfg ▸ hp) hwalk
  exact ⟨_, hexec, rfl, BitVec.eq_of_toNat_eq (hdstLen.trans (length_sourceBytes s)),
    resultBytes_withResult _ _ hout hdstLen, rfl, rfl, rfl⟩

end Sys2Proof.Machine
end

section
/-! PROOFS. The completion every command ends in, and what RESET leaves: the statements O19 and O21 (45_control.md R182,
R186). -/

namespace Sys2Proof.Machine

theorem CompletedWith.busy {c : ErrCode} {s t : State} (h : CompletedWith c s t) : t.busy = false := by
  rw [State.busy, h.idle]

/-- Every command ends in the completion, RESET behind the clearing of the older events. -/
theorem exec_completedWith (i : Instr) (s : State) :
    ∃ t before, exec i s = .next t ∧ CompletedWith t.errCode before t ∧
      before.irqStatus = if i = .reset then 0#3 else s.irqStatus := by
  cases i with
  | install =>
    refine ⟨installCommand s, s, rfl, ?_, rfl⟩
    rcases installCommand_cases s with ⟨-, hs⟩ | ⟨-, hs⟩ <;> rw [hs]
    · exact complete_completedWith _ s
    · exact (complete_withKey_frame _ _ s).1
  | pack =>
    obtain ⟨t, hexec, hcompleted, -⟩ := packAndUnpackFailuresAndFrames .pack s (.inl rfl)
    exact ⟨t, s, hexec, hcompleted, rfl⟩
  | unpack =>
    obtain ⟨t, hexec, hcompleted, -⟩ := packAndUnpackFailuresAndFrames .unpack s (.inr rfl)
    exact ⟨t, s, hexec, hcompleted, rfl⟩
  | reset => exact ⟨resetCommand s, { resetState true s with cmdLast := 0xF#4 }, rfl, complete_completedWith .ok _, rfl⟩
  | illegal op zero => exact ⟨_, s, exec_illegal_eq op zero s, complete_completedWith _ s, rfl⟩

/-- Settles O19: the fields of the completion. -/
theorem everyCommandEndsInTheCompletion : Obligations.EveryCommandEndsInTheCompletion := by
  intro i s
  obtain ⟨t, before, hexec, hcompleted, hevents⟩ := exec_completedWith i s
  exact ⟨t, t.errCode, hexec, rfl, hcompleted.err, hcompleted.busy, hcompleted.done, hevents ▸ hcompleted.irqStatus⟩

/-- Settles O21: the reset state with the memories kept, completed with OK. -/
theorem resetCommandReturnsToTheResetState : Obligations.ResetCommandReturnsToTheResetState := by
  intro s
  have hevents : 0#3 ||| completionEvents .ok = 0b001#3 := by decide
  have hstatus : regValue (resetCommand s) .status = regValue (resetCommand State.reset) .status := rfl
  refine ⟨resetCommand s, rfl, ?_, fun a => byteAt_congr rfl rfl rfl rfl a, rfl, by simp [irq], rfl,
    hstatus.trans (by decide)⟩
  rw [← hevents]
  rfl

end Sys2Proof.Machine
end

section
/-! PROOFS. What a host write does in each state of the engine: the statements O10 and O11 (45_control.md R180, R184,
R192). -/

namespace Sys2Proof.Machine

/-! ### Register accesses by their address -/

/-- The address of a register is its offset. -/
theorem eq_regOffset_of_regAt {a : BitVec 20} {r : Reg} (h : regAt a.toNat = some r) : a = regOffset r := by
  refine BitVec.eq_of_toNat_eq ?_
  generalize a.toNat = n at h
  unfold regAt at h
  split at h <;> cases h <;> rfl

/-- A legal access of the register block is an access of a register as a word (20_memory.md R56). -/
theorem word_of_accessLegal {p : Params} {isWrite : Bool} {a n : Nat} (hregs : a < 0x100)
    (h : accessLegal p isWrite a n = true) : n = 4 ∧ a ∈ registerOffsets := by
  have hregion : regionAt p a = .regs := if_pos hregs
  obtain ⟨-, hcases⟩ := (accessLegal_iff p isWrite a n).mp h
  simpa [hregion, regAt_isSome_iff] using hcases

/-! ### The writes that only an idle core takes -/

section
variable {s : State}

theorem whenIdle_of_busy (effect : State → State) (h : s.busy = true) : whenIdle effect s = dropWrite s := if_pos h

theorem onCmdWrite_of_busy (v : Word) (h : s.busy = true) : onCmdWrite v s = dropWrite s := if_pos h

theorem onCmdWrite_of_idle (v : Word) (h : s.busy = false) :
    onCmdWrite v s = acceptCommand v (Config.latency s.draws) (nextDraw s) := by
  rw [onCmdWrite, h]
  rfl

/-- The registers whose writes a busy core drops (45_control.md R184). -/
abbrev idleRegs : List Reg := [.cmd, .keyLen, .srcLen, .rngState]

theorem writeReg_of_busy {r : Reg} (v : Word) (h : s.busy = true) (hr : r ∈ idleRegs) :
    writeReg r v s = dropWrite s := by
  cases r with
  | cmd => exact onCmdWrite_of_busy v h
  | keyLen | srcLen | rngState => rw [writeReg, whenIdle_of_busy _ h]
  | id | param0 | param1 | param2 | status | errCode | dstLen | pad | trail | dictInfo | lineInfo | codeInfo | irqEn
  | irqStatus => exact absurd hr (by decide)

/-- The registers whose writes have no effect (45_control.md R192). -/
abbrev readOnlyRegs : List Reg :=
  [.id, .param0, .param1, .param2, .status, .errCode, .dstLen, .pad, .trail, .dictInfo, .lineInfo, .codeInfo]

theorem writeReg_of_readOnly {r : Reg} (v : Word) (s : State) (hr : r ∈ readOnlyRegs) : writeReg r v s = s := by
  cases r with
  | id | param0 | param1 | param2 | status | errCode | dstLen | pad | trail | dictInfo | lineInfo | codeInfo => rfl
  | cmd | keyLen | srcLen | rngState | irqEn | irqStatus => exact absurd hr (by decide)

/-- A legal write to a data window of a busy core is dropped (45_control.md R184). -/
theorem writeEffect_window_of_busy {a : Nat} (n : Nat) (v : Word) (h : s.busy = true)
    (hwindow : inDataWindow s.cfg a = true) : writeEffect a n v s = dropWrite s := by
  cases hregion : regionAt s.cfg a with
  | keyMem | srcMem | dstMem => simp [writeEffect, hregion, writeWindow, whenIdle_of_busy _ h]
  | regs | ctMem | reserved => simp [inDataWindow, hregion] at hwindow

end

/-- Settles O10: the write of CMD idle and busy, and why CMD takes aligned words only. -/
theorem commandWriteRule : Obligations.CommandWriteRule := by
  refine ⟨fun s v hidle => ⟨Config.latency s.draws, ?_⟩, fun s v hbusy => ?_, fun s a n v hle hlt hnot => ?_⟩
  · exact (hostWrite_register s .cmd v).trans (by rw [writeReg, onCmdWrite_of_idle v hidle]; rfl)
  · exact (hostWrite_register s .cmd v).trans (by rw [writeReg, onCmdWrite_of_busy v hbusy]; rfl)
  · refine hostWrite_illegal v (Bool.eq_false_iff.mpr fun hlegal => hnot ?_)
    obtain ⟨rfl, ha⟩ := word_of_accessLegal (by omega) hlegal
    have hcmd : a.toNat = 0x10 := by
      simp only [registerOffsets, List.mem_cons, List.not_mem_nil, or_false] at ha
      omega
    exact ⟨BitVec.eq_of_toNat_eq hcmd, rfl⟩

/-- Settles O11: dropped writes by register or window, then the writes a busy core takes and those without effect. -/
theorem writesWhileBusyAreDropped : Obligations.WritesWhileBusyAreDropped := by
  refine ⟨fun s a n v hbusy hlegal hplace => ?_, fun s v => hostWrite_register s .irqEn v,
    fun s v => hostWrite_register s .irqStatus v, fun s a v ha => ?_, fun s a n v => hostWrite_illegal v⟩
  · have heffect : writeEffect a.toNat n v s = dropWrite s := by
      rcases hplace with hreg | hwindow
      · have hregs : ∀ a ∈ [0x010, 0x020, 0x024, 0x048], ∃ r ∈ idleRegs, regAt a = some r := by decide
        obtain ⟨r, hr, hat⟩ := hregs _ hreg
        obtain rfl := eq_regOffset_of_regAt hat
        simp [writeEffect, writeReg_of_busy v hbusy hr]
      · exact writeEffect_window_of_busy n v hbusy hwindow
    rw [hostWrite, if_pos hlegal, heffect]
    rfl
  · have hregs : ∀ a ∈ [0x000, 0x004, 0x008, 0x00C, 0x014, 0x018, 0x028, 0x02C, 0x030, 0x034, 0x038, 0x03C],
        ∃ r ∈ readOnlyRegs, regAt a = some r := by decide
    obtain ⟨r, hr, hat⟩ := hregs _ ha
    obtain rfl := eq_regOffset_of_regAt hat
    rw [hostWrite_register, writeReg_of_readOnly v s hr]

end Sys2Proof.Machine
end

section
/-! PROOFS. What a step of the engine is, and what the outside world can make of a state while a command runs: the
statements O5 and O6 (45_control.md R180, R181, R189). -/

namespace Sys2Proof.Machine

/-! ### The step by the engine's state -/

section
variable {s : State} {w : Word}

theorem step_of_due (h : s.engine = .running w 0) (hq : s.queue.head? ≠ some .hardReset) :
    step s = exec (decodeWord w) s := by
  simp [step, dueCommand, resetNext, h, hq]

theorem step_of_resetNext (h : s.engine = .running w 0) (hq : s.queue.head? = some .hardReset) :
    step s = .next (hostTurn s) := by
  simp [step, dueCommand, resetNext, h, hq, otherStep, countInternalStep]

theorem step_of_running {k : Nat} (h : s.engine = .running w (k + 1)) :
    step s = .next (hostTurn { s with engine := .running w k }) := by
  simp [step, dueCommand, otherStep, countInternalStep, h]

end

/-- A command word that has just been placed is the one the next step runs. -/
theorem step_withAccepted (v : Word) (s : State) : step (withAccepted v s) = exec (decodeWord v) (withAccepted v s) :=
  step_of_due rfl (withoutReset_head s.queue)

theorem withoutReset_of_head {q : List HostOp} (h : q.head? ≠ some .hardReset) : withoutReset q = q := by
  cases q with
  | nil => rfl
  | cons op q =>
    have hop : op ≠ .hardReset := by simpa using h
    simp [withoutReset, hop]

theorem withFetchWord_eq (w : Word) (s : State) : s.withFetchWord 32 w.toNat = withAccepted w s := by
  rw [State.withFetchWord, Nat.mod_eq_of_lt w.isLt, BitVec.ofNat_toNat, BitVec.setWidth_eq]

/-! ### The two polling operations of the queue -/

@[simp] theorem hostRead_queue (a : BitVec 20) (n : Nat) (s : State) : (hostRead a n s).queue = s.queue := by
  obtain ⟨r, d, h, -⟩ := hostRead_frame a n s
  rw [h]

/-- WAIT stays in front while BUSY reads 1 (30_encoding.md R92). -/
theorem pollStatus_eq {s : State} {q : List HostOp} (hq : s.queue = .wait :: q) :
    pollStatus s q = { hostRead (regOffset .status) 4 s with queue := if s.busy then .wait :: q else q } := by
  have hbusy : (portData (hostRead (regOffset .status) 4 s)).getLsbD 0 = s.busy := by
    rw [portData, hostRead_register_port]
    exact (readReg_getLsbD (by omega) (by decide)).trans (statusWord_flags s).1
  have hqueue := (hostRead_queue (regOffset .status) 4 s).trans hq
  simp only [pollStatus, hbusy]
  split
  · rw [← hqueue]
  · rfl

/-- READDST puts as many byte reads in front as DST_LEN reads (30_encoding.md R92). -/
theorem readResult_eq (s : State) (q : List HostOp) :
    readResult s q =
      { hostRead (regOffset .dstLen) 4 s with queue := dstReads (readReg s .dstLen).toNat ++ q } := by
  simp only [readResult, portData, hostRead_register_port]

/-- Settles O5: the step by the engine's state, and the turn by the operation in front of the queue. -/
theorem stepRunsTheAcceptedCommand : Obligations.StepRunsTheAcceptedCommand := by
  refine ⟨fun s w => step_of_due, fun s w => step_of_resetNext, fun s i hi => ?_, fun s w k => step_of_running,
    fun s hidle => step_of_idle (by rw [State.busy, hidle]), fun s s' hs' => ?_⟩
  · rw [withFetchWord_eq]
    refine ⟨?_, fun hq => ?_⟩
    · rw [step_withAccepted, decodeWord_encode hi]
    · rw [withAccepted, withoutReset_of_head hq]
  · have hturn : step s = .next (hostTurn s') ∧ s'.queue = s.queue ∧ s'.busy = s.busy := by
      rcases hs' with ⟨hidle, rfl⟩ | ⟨w, k, hrunning, rfl⟩
      · exact ⟨step_of_idle (by rw [State.busy, hidle]), rfl, rfl⟩
      · exact ⟨step_of_running hrunning, rfl, by rw [State.busy, State.busy, hrunning]⟩
    obtain ⟨hstep, hqueue, hbusy⟩ := hturn
    rw [hstep, ← hqueue, ← hbusy]
    refine ⟨fun hq => ?_, fun a n q hq => ?_, fun a n v q hq => ?_, fun q hq => ?_, fun q hq => ?_⟩ <;>
      rw [hostTurn, hq]
    · exact congrArg _ (pollStatus_eq hq)
    · exact congrArg _ (readResult_eq s' q)

/-! ### While a command runs -/

/-- What the outside world makes of a state while a command runs and no hardware reset comes: it writes IRQ_EN and
IRQ_STATUS, and its own port, draws and queue go on (45_control.md R184, R189). -/
structure HostMeanwhile (s t : State) : Prop where
  frame : t = { s with
    irqEn := t.irqEn, irqStatus := t.irqStatus, port := t.port, draws := t.draws, queue := t.queue }
  noReset : .hardReset ∉ t.queue

theorem HostMeanwhile.trans {s t u : State} (h : HostMeanwhile s t) (h' : HostMeanwhile t u) : HostMeanwhile s u :=
  ⟨h'.frame.trans (by rw [h.frame]), h'.noReset⟩

theorem HostMeanwhile.withQueue {s t : State} (h : HostMeanwhile s t) {q : List HostOp} (hq : .hardReset ∉ q) :
    HostMeanwhile s { t with queue := q } :=
  h.trans ⟨rfl, hq⟩

/-- The outside world does not look at the internal steps left. -/
theorem HostMeanwhile.withEngine {s t : State} (h : HostMeanwhile s t) (g : Engine) :
    HostMeanwhile { s with engine := g } { t with engine := g } :=
  ⟨by rw [h.frame], h.noReset⟩

section
variable {s : State}

theorem writeReg_meanwhile (r : Reg) (v : Word) (hbusy : s.busy = true) (hq : .hardReset ∉ s.queue) :
    HostMeanwhile s (writeReg r v s) := by
  cases r with
  | cmd | keyLen | srcLen | rngState =>
    rw [writeReg_of_busy v hbusy (by decide)]
    exact ⟨rfl, hq⟩
  | irqEn | irqStatus => exact ⟨rfl, hq⟩
  | id | param0 | param1 | param2 | status | errCode | dstLen | pad | trail | dictInfo | lineInfo | codeInfo =>
    exact ⟨rfl, hq⟩

theorem writeEffect_meanwhile (a n : Nat) (v : Word) (hbusy : s.busy = true) (hq : .hardReset ∉ s.queue) :
    HostMeanwhile s (writeEffect a n v s) := by
  cases hregion : regionAt s.cfg a with
  | regs =>
    simp only [writeEffect, hregion]
    split
    · exact writeReg_meanwhile _ v hbusy hq
    · exact ⟨rfl, hq⟩
  | keyMem | srcMem | dstMem =>
    rw [writeEffect_window_of_busy n v hbusy (by rw [inDataWindow, hregion])]
    exact ⟨rfl, hq⟩
  | ctMem | reserved =>
    simp only [writeEffect, hregion]
    exact ⟨rfl, hq⟩

theorem hostWrite_meanwhile (a : BitVec 20) (n : Nat) (v : Word) (hbusy : s.busy = true)
    (hq : .hardReset ∉ s.queue) : HostMeanwhile s (hostWrite a n v s) := by
  rw [hostWrite]
  split
  · have heffect := writeEffect_meanwhile a.toNat n v hbusy hq
    exact heffect.trans ⟨rfl, heffect.noReset⟩
  · exact ⟨rfl, hq⟩

theorem hostRead_meanwhile (a : BitVec 20) (n : Nat) (hq : .hardReset ∉ s.queue) :
    HostMeanwhile s (hostRead a n s) := by
  obtain ⟨r, d, h, -⟩ := hostRead_frame a n s
  rw [h]
  exact ⟨rfl, hq⟩

/-- The outside world's turn while a command runs. -/
theorem hostTurn_meanwhile (hbusy : s.busy = true) (hq : .hardReset ∉ s.queue) : HostMeanwhile s (hostTurn s) := by
  have hrest {op : HostOp} {q : List HostOp} (hs : s.queue = op :: q) : .hardReset ∉ q :=
    List.not_mem_of_not_mem_cons (hs ▸ hq)
  rcases hostTurn_cases s with ⟨-, h⟩ | ⟨a, n, q, hs, h⟩ | ⟨a, n, v, q, hs, h⟩ | ⟨q, hs, h⟩ | ⟨q, hs, h⟩ |
    ⟨q, hs, h⟩ <;> rw [h]
  · exact ⟨rfl, hq⟩
  · exact HostMeanwhile.trans ⟨rfl, hrest hs⟩ (hostRead_meanwhile a n (hrest hs))
  · exact HostMeanwhile.trans ⟨rfl, hrest hs⟩ (hostWrite_meanwhile a n v hbusy (hrest hs))
  · exact absurd (by rw [hs]; exact List.mem_cons_self) hq
  · rw [pollStatus_eq hs]
    refine (hostRead_meanwhile _ 4 hq).withQueue ?_
    rwa [if_pos hbusy, ← hs]
  · rw [readResult_eq]
    refine (hostRead_meanwhile _ 4 hq).withQueue ?_
    rw [List.mem_append, not_or]
    exact ⟨by simp [dstReads], hrest hs⟩

end

/-- The internal steps of a running command, with the outside world's turns (45_control.md R191). -/
theorem run_internalSteps {w : Word} : ∀ {k : Nat} {s : State}, s.engine = .running w k → .hardReset ∉ s.queue →
    ∃ t, core.run k s = .next t ∧ HostMeanwhile { s with engine := .running w 0 } t
  | 0, s, h, hq => ⟨s, rfl, by rw [← h]; exact ⟨rfl, hq⟩⟩
  | k + 1, s, h, hq => by
    have hturn : HostMeanwhile { s with engine := .running w k } (hostTurn { s with engine := .running w k }) :=
      hostTurn_meanwhile rfl hq
    have hengine := congrArg State.engine hturn.frame
    obtain ⟨t, hrun, ht⟩ := run_internalSteps hengine hturn.noReset
    have hstep : core.step s = .next (hostTurn { s with engine := .running w k }) := step_of_running h
    refine ⟨t, ?_, (hturn.withEngine (.running w 0)).trans ht⟩
    simp only [Host.Core.run, hstep, hrun]

/-- Settles O6: after the internal steps the command is due, and its inputs are those of the start. -/
theorem acceptedCommandRunsToCompletion : Obligations.AcceptedCommandRunsToCompletion := by
  intro s w k h hq
  obtain ⟨t, hrun, ht⟩ := run_internalSteps h hq
  have hsame {α : Type} (field : State → α) := congrArg field ht.frame
  have hdue : step t = exec (decodeWord w) t :=
    step_of_due (hsame State.engine) fun hhead => ht.noReset (List.mem_of_head? hhead)
  obtain ⟨u, before, hexec, hcompleted, -⟩ := exec_completedWith (decodeWord w) t
  exact ⟨t, u, hrun, hsame State.engine, hsame State.cfg, hsame State.cmdLast, hsame State.keyLen, hsame State.srcLen,
    hsame State.rng, hsame State.mem,
    byteAt_congr (hsame State.mem) (hsame State.cfg) (hsame State.keySrcEpoch) (hsame State.dstEpoch),
    hsame State.key, hsame State.out, hsame State.errCode, hdue, hdue.trans hexec, hcompleted.busy, hcompleted.done⟩

end Sys2Proof.Machine
end

section
/-! PROOFS. The key check of PACK and UNPACK, and that an implicit install is an INSTALL of the same text: the statement
O40 (45_control.md R185). -/

namespace Sys2Proof.Machine

/-! ### Implicit and explicit installs -/

/-- An implicit and an explicit install of a text differ in STATUS.DEFAULT_KEY only (40_install.md R109). -/
theorem installKey_implicit (p : Params) (t : List Byte) (k : KeyTables) :
    let implicit := installKey p t true k
    let explicit := installKey p t false k
    implicit.1 = { explicit.1 with defaultKey := implicit.1.defaultKey } ∧ implicit.2 = explicit.2 := by
  obtain ⟨tree, htree, -, -⟩ := treeBuild_dictBuild p t k.root
  cases hcode : codeGen tree.pool (dictBuild p t).dict tree.root with
  | error e =>
    rw [installKey_of_codeGen_error htree hcode, installKey_of_codeGen_error htree hcode]
    exact ⟨rfl, rfl⟩
  | ok ct =>
    rw [installKey_ok htree hcode, installKey_ok htree hcode]
    exact ⟨rfl, rfl⟩

/-- STATUS.DEFAULT_KEY after an install: that of the install with a VALID key, 0 with a FAILED one (40_install.md
R109). -/
theorem installKey_defaultKey (p : Params) (t : List Byte) (implicit : Bool) (k : KeyTables) :
    (installKey p t implicit k).1.defaultKey =
      if (installKey p t implicit k).1.state = .valid then implicit else false := by
  rcases installKey_cases p t implicit k with ⟨e, -, hfailed, hdefault, -⟩ | ⟨tree, ct, -, -, -, hkey⟩
  · rw [hdefault, hfailed]
    rfl
  · rw [hkey]
    rfl

/-! ### The key check -/

theorem ensureKey_of_failed {s : State} (h : s.key.state = .failed) : ensureKey s = (s, some .notReady) := by
  rw [ensureKey, h]

/-- The fatal error of an install, if it raised one. -/
def fatalError : Except ErrCode ErrCode → Option ErrCode
  | .error e => some e
  | .ok _ => none

theorem fatalError_eq_some_iff (r : Except ErrCode ErrCode) (e : ErrCode) : fatalError r = some e ↔ r = .error e := by
  cases r <;> simp [fatalError]

/-- The key check of a core without a key is the implicit install of DEFAULT_KEY. -/
theorem ensureKey_eq_install {s : State} (h : s.key.state = .none) :
    ensureKey s = ({ s with key := (installKey s.cfg s.cfg.defaultKey true s.key).1 },
      fatalError (installKey s.cfg s.cfg.defaultKey true s.key).2) := by
  rw [ensureKey, h]
  rfl

namespace KeyedCommand

variable {command payload : State → State} {s : State}

theorem of_error (hc : KeyedCommand command payload) (h : s.srcLen.toNat ≤ s.cfg.srcMax) {e : ErrCode}
    (he : (ensureKey s).2 = some e) : command s = complete e (noResult (ensureKey s).1) := by
  rcases hc.cases s with ⟨hover, -⟩ | ⟨-, ⟨e', he', hs⟩ | ⟨hok, -⟩⟩
  · omega
  · cases he'.symm.trans he
    exact hs
  · cases hok.symm.trans he

theorem of_ok (hc : KeyedCommand command payload) (h : s.srcLen.toNat ≤ s.cfg.srcMax)
    (hok : (ensureKey s).2 = none) : command s = payload (ensureKey s).1 := by
  rcases hc.cases s with ⟨hover, -⟩ | ⟨-, ⟨e, he, -⟩ | ⟨-, hs⟩⟩
  · omega
  · cases hok.symm.trans he
  · exact hs

end KeyedCommand

/-! ### The codes of the last parts -/

/-- The warnings of a successful install (40_install.md R110). -/
abbrev warningCodes : List ErrCode := [.invalidExpressionLine, .dictionaryFull]

theorem packPayload_not_warning (s : State) : (packPayload s).errCode ∉ warningCodes := by
  rcases packPayload_cases s with ⟨e, h, hcode⟩ | ⟨bits, -, hfit, h⟩
  · have he : e = .encodingFailure ∨ e = .capacityError := by
      rcases hcode with herr | hcapacity
      · exact tokenizeFrom_error _ _ _ _ _ herr
      · exact .inr hcapacity
    rw [h, complete_errCode]
    rcases he with rfl | rfl <;> decide
  · rw [h, packBits_of_fits hfit, withResult_errCode]
    decide

theorem unpackSource_not_warning (s : State) (hk : Walkable s.key) : (unpackSource s).errCode ∉ warningCodes := by
  by_cases hsource : sourceBytes s = emptyPacket
  · rw [unpackSource_of_emptyPacket hsource]
    rw [withResult_errCode]
    decide
  · cases hframe : checkFrame (sourceBytes s) with
    | error e =>
      rw [unpackSource_of_error hsource hframe, complete_errCode]
      rcases checkFrame_error hframe with rfl | rfl <;> decide
    | ok f =>
      rw [unpackSource_of_ok hsource hframe]
      cases hwalk : walk s.key s.cfg.dstMax (frameBits f) with
      | error e =>
        rw [unpackFrame_of_error hwalk, complete_errCode, walk_error hk hwalk]
        decide
      | ok w =>
        rw [unpackFrame_of_ok hwalk, withResult_errCode]
        decide

/-- PACK and UNPACK past their length check, on a core without a key: an implicit install, which is an INSTALL of the
same text but for DEFAULT_KEY, and its fatal error or a code of the command's own (45_control.md R185). -/
theorem KeyedCommand.of_none {command payload : State → State} (hc : KeyedCommand command payload)
    (hown : ∀ s, Walkable s.key → (payload s).errCode ∉ warningCodes) {s : State} (hnone : s.key.state = .none)
    (hfits : s.srcLen.toNat ≤ s.cfg.srcMax) :
    let r := installKey s.cfg s.cfg.defaultKey true s.key
    (command s).key = r.1 ∧
      ((r.1.state = .valid ∧ (∃ c, r.2 = .ok c) ∧ (command s).errCode ∉ warningCodes) ∨
        (r.1.state = .failed ∧ r.2 = .error (command s).errCode ∧ (command s).errCode ∈ fatalCodes ∧
          (command s).out = ResultRegs.absent)) := by
  have hcheck := ensureKey_eq_install hnone
  rcases installKey_outcome s.cfg s.cfg.defaultKey true s.key with ⟨e, he, herr, hstate⟩ | ⟨c, -, hok, hstate, hwalk⟩
  · rw [hc.of_error (e := e) hfits (by rw [hcheck, herr]; rfl), hcheck]
    exact ⟨rfl, .inr ⟨hstate, herr, he, rfl⟩⟩
  · rw [hc.of_ok hfits (by rw [hcheck, hok]; rfl), hcheck]
    exact ⟨hc.keepsKey _, .inl ⟨hstate, ⟨c, hok⟩, hown _ hwalk⟩⟩

/-- Settles O40: the key check by KEY_STATE, and the two commands as keyed commands. -/
theorem keyCheckOfPackAndUnpack : Obligations.KeyCheckOfPackAndUnpack := by
  refine ⟨fun s => ⟨ensureKey_of_valid, ensureKey_of_failed, fun hnone =>
    ⟨_, ensureKey_eq_install hnone, fatalError_eq_some_iff _⟩⟩, fun i s hi hfits => ?_⟩
  obtain ⟨command, payload, hc, hown, hexec⟩ : ∃ command payload, KeyedCommand command payload ∧
      (∀ s, Walkable s.key → (payload s).errCode ∉ warningCodes) ∧ exec i s = .next (command s) := by
    rcases hi with rfl | rfl
    · exact ⟨_, _, packCommand_keyed, fun s _ => packPayload_not_warning s, rfl⟩
    · exact ⟨_, _, unpackCommand_keyed, unpackSource_not_warning, rfl⟩
  refine ⟨command s, hexec, fun hvalid => hc.key_of_keyed (by simp [hvalid]), fun hfailed => ?_, fun hnone => ?_⟩
  · refine ⟨hc.key_of_keyed (by simp [hfailed]), hc.errCode_of_failed hfailed hfits, ?_⟩
    rw [hc.of_error hfits (by rw [ensureKey_of_failed hfailed])]
    rfl
  · obtain ⟨hkey, houtcome⟩ := hc.of_none hown hnone hfits
    have hdefault := installKey_defaultKey s.cfg s.cfg.defaultKey true s.key
    obtain ⟨hsame, hreport⟩ := installKey_implicit s.cfg s.cfg.defaultKey s.key
    refine ⟨hkey, fun e he => ?_, ?_, fun u v hcfg hukey htext hufits hv => ?_⟩
    · rcases houtcome with ⟨-, ⟨c, hok⟩, -⟩ | ⟨-, herr, -⟩
      · cases hok.symm.trans he
      · exact Except.error.inj (herr.symm.trans he)
    · rw [hkey, hdefault]
      rcases houtcome with ⟨hvalid, -, hcode⟩ | ⟨hfailed, -, hcode, hout⟩
      · rw [hvalid]
        exact .inl ⟨rfl, rfl, fun h => hcode (by simp [h]), fun h => hcode (by simp [h])⟩
      · rw [hfailed]
        exact .inr ⟨rfl, rfl, hout, hcode⟩
    · obtain ⟨-, hu⟩ := (installCommand_cases u).resolve_left fun hover => by omega
      obtain rfl : v = _ := (exec_install_next rfl hv).trans hu
      rw [hcfg, hukey, htext, complete_key, complete_errCode, hkey]
      refine ⟨hsame.symm, fun hfailed => ?_⟩
      rcases houtcome with ⟨hvalid, -⟩ | ⟨-, herr, -⟩
      · have hstate := congrArg KeyTables.state hsame
        cases hvalid.symm.trans (hstate.trans hfailed)
      · rw [← hreport, herr]
        rfl

end Sys2Proof.Machine
end

section
/-! PROOFS. Every step keeps the state invariant: the three groups of its clauses that speak of the key tables, of the
result registers and of the memory list, what keeps each of them, and the statement O58. -/

namespace Sys2Proof.Machine

/-! ### The key tables -/

/-- The invariant's clauses about the key tables. -/
structure KeyGood (p : Params) (k : KeyTables) : Prop where
  tablesFit : TablesFit p k
  validTables : k.state = .valid → TablesAgree k
  noCodes : k.state ≠ .valid → NoCodes k
  defaultKey : k.defaultKey = true → k.state = .valid
  lineInvalid : k.lineInvalid = decide (k.invalidLines ≠ 0#16)
  dictFull : k.dictFull = decide (k.fullLines ≠ 0#16)
  customCount : k.customCount.toNat ≤ p.customMax

theorem Inv.keyGood {s : State} (h : Inv s) : KeyGood s.cfg s.key := { h with }

/-- The empty tables of a reset (70_reset_and_hazards.md R231). -/
theorem keyGood_reset (p : Params) : KeyGood p KeyTables.reset where
  tablesFit :=
    { dict := Nat.zero_le _
      exprs := nofun
      pool := Nat.zero_le _
      inset := rfl
      ct := Nat.zero_le _
      root := by decide
      children := nofun
      leaves := nofun }
  validTables := nofun
  noCodes _ := ⟨rfl, rfl, rfl, rfl, rfl⟩
  defaultKey := nofun
  lineInvalid := by decide
  dictFull := by decide
  customCount := Nat.zero_le _

/-- The tree of every key text is within the capacity of the pool, with one bit of the working set for each node
(41_tree_builder.md R121). -/
theorem treeBuild_dictBuild_fits {p : Params} {t : List Byte} {root : Nat} {tree : TreeState}
    (htree : treeBuild (nodeCap p) (dictBuild p t).dict root = (tree, none)) :
    tree.pool.length ≤ nodeCap p ∧ tree.inset.length = tree.pool.length := by
  have hfits := dictBuild_fits p t
  obtain ⟨grown, a, hset, -, -, hlen, -, hbuild⟩ := treeBuild_ends root (P := fun _ => True)
    (Nat.le_trans (by decide) (le_activeEntries p t)) hfits trivial fun _ _ _ _ _ _ _ => trivial
  obtain rfl := congrArg Prod.fst (hbuild.symm.trans htree)
  exact ⟨Nat.le_trans (Nat.le_of_eq hlen) hfits, List.length_set.trans hset.length⟩

/-- The code table of an install has an entry for each active entry of the dictionary at most. -/
theorem length_ct_installKey (p : Params) (t : List Byte) (implicit : Bool) (k : KeyTables) :
    (installKey p t implicit k).1.ct.length ≤ (dictBuild p t).dict.length := by
  rcases installKey_reports p t implicit k with ⟨hvalid, -⟩ | ⟨-, hcodes, -⟩
  · obtain ⟨tree, hcodes⟩ := installKey_codesOfTree hvalid
    have hlen := hcodes.exprs_perm.length_eq
    rw [List.length_map, List.length_map] at hlen
    exact Nat.le_trans (Nat.le_of_eq hlen) (List.length_filter_le _ _)
  · rw [hcodes.ct]
    exact Nat.zero_le _

theorem length_dictBuild_le (p : Params) (t : List Byte) : (dictBuild p t).dict.length ≤ dictCap p := by
  rw [length_dictBuild, customCountOf_eq, dictCap, byteEntries]
  omega

/-- The tables of every install, successful or not, fit (00_scope.md R8, 10_state.md R43 to R45). -/
theorem installKey_tablesFit {p : Params} (hp : paramsInRange p = true) (t : List Byte) (implicit : Bool)
    (k : KeyTables) : TablesFit p (installKey p t implicit k).1 := by
  obtain ⟨tree, htree, hstands, w, l, r, hroot⟩ := treeBuild_dictBuild p t k.root
  obtain ⟨hcap, hinset⟩ := treeBuild_dictBuild_fits htree
  have hct := length_ct_installKey p t implicit k
  have htables := installKey_tables p t implicit k
  rw [htree] at htables
  generalize (installKey p t implicit k).1 = k' at hct htables ⊢
  obtain ⟨hdict, hpool, hset, hroot'⟩ := htables
  constructor
  case dict => exact hdict ▸ length_dictBuild_le p t
  case exprs =>
    rw [hdict]
    exact fun e => length_expr_of_mem_dictBuild
  case pool => exact hpool ▸ hcap
  case inset => rw [hset, hpool, hinset]
  case ct => exact Nat.le_trans hct (length_dictBuild_le p t)
  case root =>
    have hlt : tree.root < tree.pool.length := nodeAt_ne_empty_lt (by rw [hroot]; nofun)
    rw [hroot']
    exact Nat.lt_trans (Nat.lt_of_lt_of_le hlt hcap) (nodeCap_lt hp)
  case children => exact hpool ▸ hstands.children
  case leaves =>
    intro i w d hi
    obtain ⟨e, he, -⟩ := treeBuild_leaf (Nat.le_trans (by decide) (le_activeEntries p t)) (dictBuild_fits p t) htree
      (hpool ▸ hi)
    exact hdict ▸ (List.getElem?_eq_some_iff.mp he).1

/-- A count that fits 16 bits is 0 exactly when its field is. -/
theorem decide_pos_eq_decide_ofNat_ne_zero {n : Nat} (h : n ≤ 0xFFFF) :
    decide (0 < n) = decide (BitVec.ofNat 16 n ≠ 0#16) := by
  refine decide_eq_decide.mpr ?_
  rw [Ne, ← BitVec.toNat_inj, BitVec.toNat_ofNat, Nat.mod_eq_of_lt (by omega), BitVec.toNat_zero]
  omega

theorem keyGood_installKey {p : Params} (hp : paramsInRange p = true) (t : List Byte) (implicit : Bool)
    (k : KeyTables) : KeyGood p (installKey p t implicit k).1 := by
  obtain ⟨hcustom, hinvalid, hfull, hlineInvalid, hdictFull, -⟩ := installKey_counts p t implicit k
  constructor
  case tablesFit => exact installKey_tablesFit hp t implicit k
  case validTables => exact installedTablesAgree p t implicit k
  case noCodes =>
    intro hnot
    rcases installKey_reports p t implicit k with ⟨hvalid, -⟩ | ⟨-, hcodes, -⟩
    · exact absurd hvalid hnot
    · exact hcodes
  case defaultKey =>
    intro hdefault
    rcases installKey_cases p t implicit k with ⟨e, -, -, hfalse, -⟩ | ⟨tree, ct, -, -, -, hkey⟩
    · cases hfalse.symm.trans hdefault
    · rw [hkey, finishKey_state]
  case lineInvalid =>
    rw [hlineInvalid, hinvalid]
    exact decide_pos_eq_decide_ofNat_ne_zero (dictBuild_invalidLines p t ▸ Nat.min_le_right _ _)
  case dictFull =>
    rw [hdictFull, hfull]
    exact decide_pos_eq_decide_ofNat_ne_zero (dictBuild_fullLines p t ▸ Nat.min_le_right _ _)
  case customCount =>
    rw [hcustom, customCountOf_eq]
    exact Nat.le_trans (Nat.mod_le _ _) (Nat.min_le_right _ _)

theorem KeyNext.keyGood {p : Params} {k k' : KeyTables} (h : KeyNext p k k') (hp : paramsInRange p = true)
    (hk : KeyGood p k) : KeyGood p k' := by
  rcases h with rfl | rfl | ⟨text, implicit, rfl⟩
  · exact hk
  · exact keyGood_reset p
  · exact keyGood_installKey hp text implicit k

theorem Inv.withKey {s : State} (h : Inv s) {k : KeyTables} (hk : KeyGood s.cfg k) : Inv { s with key := k } :=
  { hk, h with }

/-- The key check keeps the invariant (45_control.md R185). -/
theorem Inv.ensureKey {s : State} (h : Inv s) : Inv (ensureKey s).1 := by
  rw [ensureKey_fst]
  exact h.withKey ((ensureKey_keyNext s).keyGood h.params h.keyGood)

/-! ### The result registers -/

/-- The invariant's clauses about the result registers. -/
structure OutGood (p : Params) (r : ResultRegs) : Prop where
  dstFits : r.dstLen.toNat ≤ p.dstMax
  trailFlag : r.trailWarn = decide (r.trail ≠ 0#8)
  trailBound : r.trail.toNat ≤ 127

theorem outGood_absent (p : Params) : OutGood p ResultRegs.absent := ⟨Nat.zero_le _, by decide, by decide⟩

/-- PACK drops no bits (43_pack.md R140). -/
theorem outGood_packRegs {p : Params} {l : Nat} (h : packedLength l ≤ p.dstMax) : OutGood p (packRegs l) where
  dstFits := Nat.le_trans (Nat.mod_le _ _) h
  trailFlag := (outGood_absent p).trailFlag
  trailBound := Nat.zero_le _

/-- A path goes on through a child of the node it leads to. -/
theorem reach_append_child {pool : List Node} {i m : Nat} {b : Bool} (hchild : childOf (nodeAt pool i) b = some m) :
    ∀ {path : Bits} {n : Nat}, reach pool n path = some i → reach pool n (path ++ [b]) = some m
  | [], n, h => by
    obtain rfl : n = i := Option.some.inj h
    exact reach_cons hchild []
  | _ :: _, _, h => by
    obtain ⟨j, hj, hreach⟩ := reach_cons_some h
    exact (reach_cons hj _).trans (reach_append_child hchild hreach)

/-- A walk through tables that agree stands on internal nodes, so it ends 127 bits below the root at most
(42_code_table.md R133, 44_unpack.md R168). -/
theorem depth_of_walkFrom {k : KeyTables} (hk : TablesAgree k) {dstMax : Nat} {w : WalkResult} :
    ∀ {bits : Bits} {n : Nat} {path : Bits} {out : List Byte}, reach k.pool k.root path = some n →
      (∃ w l r, nodeAt k.pool n = .internal w l r) → walkFrom k dstMax n path.length out bits = .ok w →
      w.depth < maxCodeLen
  | [], n, path, _, hreach, ⟨_, _, _, hn⟩, h => by
    obtain rfl := Except.ok.inj h
    exact hk.depth path n _ _ _ hreach hn
  | b :: bits, n, path, out, hreach, _, h => by
    cases hchild : childOf (nodeAt k.pool n) b with
    | none => simp [walkFrom, hchild] at h
    | some m =>
      cases hm : nodeAt k.pool m with
      | empty => simp [walkFrom, hchild, hm] at h
      | internal w' l r =>
        have hlen : path.length + 1 = (path ++ [b]).length := by simp
        rw [walkFrom_internal hchild ⟨w', l, r, hm⟩, hlen] at h
        exact depth_of_walkFrom hk (reach_append_child hchild hreach) ⟨w', l, r, hm⟩ h
      | leaf w' dix =>
        rw [walkFrom_leaf hchild hm] at h
        split at h
        · cases h
        · exact depth_of_walkFrom hk (path := []) rfl hk.rootInternal h

/-- UNPACK's registers, after a walk through tables that agree (44_unpack.md R168, R169). -/
theorem outGood_unpackRegs {p : Params} {k : KeyTables} {bits : Bits} {w : WalkResult} (pad : Nat)
    (hk : TablesAgree k) (h : walk k p.dstMax bits = .ok w) : OutGood p (unpackRegs pad w) := by
  have hdepth : w.depth < 128 := depth_of_walkFrom hk (path := []) rfl hk.rootInternal h
  have htrail : (unpackRegs pad w).trail.toNat = w.depth := Nat.mod_eq_of_lt (by omega)
  have houtput := length_output_of_walkFrom h (Nat.zero_le _)
  refine ⟨Nat.le_trans (Nat.mod_le _ _) houtput, decide_eq_decide.mpr ?_, by omega⟩
  rw [Ne, ← BitVec.toNat_inj, htrail, BitVec.toNat_zero]
  omega

/-! ### The memory list -/

/-- The invariant's clauses about the memory list. -/
structure MemGood (p : Params) (m : Memory) : Prop where
  memCanonical : Memory.wf m
  memInWindows : ∀ c ∈ m, inDataWindow p c.1 = true

theorem Inv.memGood {s : State} (h : Inv s) : MemGood s.cfg s.mem := { h with }

/-- Bytes written in the data windows. -/
theorem MemGood.writeBytes {p : Params} {m : Memory} (h : MemGood p m) {a : Nat} {bs : List Byte}
    (hwindow : ∀ x, a ≤ x → x < a + bs.length → inDataWindow p x = true) : MemGood p (memWriteBytes m a bs) where
  memCanonical := memWriteBytes_wf h.memCanonical bs a
  memInWindows c hc := by
    rcases mem_memWriteBytes hc with ⟨hle, hlt⟩ | hold
    · exact hwindow c.1 hle hlt
    · exact h.memInWindows c hold

theorem MemGood.forget {p : Params} {m : Memory} (h : MemGood p m) (base n : Nat) : MemGood p (memForget m base n) where
  memCanonical := memForget_wf h.memCanonical base n
  memInWindows c hc := h.memInWindows c (mem_memForget.mp hc).1

/-- Every byte of a range in one of the three data windows is a byte of a data window (20_memory.md R51). -/
theorem inDataWindow_of_range {p : Params} (hp : paramsInRange p = true) {r : Region}
    (hr : r = .keyMem ∨ r = .srcMem ∨ r = .dstMem) {x : Nat} (hle : regionBase r ≤ x)
    (hlt : x < regionBase r + regionSize p r) : inDataWindow p x = true := by
  have hused : r ≠ .reserved := by rcases hr with rfl | rfl | rfl <;> decide
  have hregion : regionAt p x = r := (regionAt_eq_iff hp hused x).mpr ⟨hle, hlt⟩
  rcases hr with rfl | rfl | rfl <;> rw [inDataWindow, hregion]

/-- Every byte of a legal write to a data window is a byte of a data window (20_memory.md R56, log entry 9). -/
theorem inDataWindow_of_legal {p : Params} (hp : paramsInRange p = true) {a n : Nat} {r : Region}
    (hr : r = .keyMem ∨ r = .srcMem ∨ r = .dstMem) (hregion : regionAt p a = r)
    (hlegal : accessLegal p true a n = true) {x : Nat} (hle : a ≤ x) (hlt : x < a + n) : inDataWindow p x = true := by
  obtain ⟨-, hcases⟩ := (accessLegal_iff p true a n).mp hlegal
  have hend : regionAt p (a + n - 1) = r := by
    rcases hr with rfl | rfl | rfl <;> simpa [hregion] using hcases
  have hused : r ≠ .reserved := by rcases hr with rfl | rfl | rfl <;> decide
  obtain ⟨hbase, hsize⟩ := (access_within_region_iff hp hused a (by omega)).mp ⟨hregion, hend⟩
  exact inDataWindow_of_range hp hr (Nat.le_trans hbase hle) (by omega)

/-! ### The commands -/

theorem Inv.complete {s : State} (h : Inv s) (c : ErrCode) : Inv (complete c s) :=
  { h with lifecycle := nofun, errFlag := rfl }

theorem Inv.noResult {s : State} (h : Inv s) : Inv (noResult s) :=
  { outGood_absent s.cfg, h.memGood.forget dstBase s.cfg.dstMax, h with }

/-- The end of a PACK or an UNPACK with a result that fits in DSTMEM. -/
theorem Inv.withResult {s : State} (h : Inv s) {bytes : List Byte} {regs : ResultRegs} (rng : BitVec 16)
    (hfit : bytes.length ≤ s.cfg.dstMax) (hregs : OutGood s.cfg regs) : Inv (withResult bytes regs rng s) := by
  have hmem : MemGood s.cfg (memWriteBytes (memForget s.mem dstBase s.cfg.dstMax) dstBase bytes) :=
    (h.memGood.forget dstBase s.cfg.dstMax).writeBytes fun x hle hlt =>
      inDataWindow_of_range h.params (.inr (.inr rfl)) hle (Nat.lt_of_lt_of_le hlt (Nat.add_le_add_left hfit _))
  have hresult : Inv { writeResult bytes regs s with rng := rng } := { hregs, hmem, h with }
  exact hresult.complete .ok

theorem Inv.installCommand {s : State} (h : Inv s) : Inv (installCommand s) := by
  rcases installCommand_cases s with ⟨-, hs⟩ | ⟨-, hs⟩ <;> rw [hs]
  · exact h.complete _
  · exact (h.withKey (keyGood_installKey h.params _ _ _)).complete _

theorem Inv.packPayload {s : State} (h : Inv s) : Inv (packPayload s) := by
  rcases packPayload_cases s with ⟨e, hs, -⟩ | ⟨bits, -, hfit, hs⟩
  · rw [hs]
    exact h.noResult.complete e
  · rw [hs, packBits_of_fits hfit]
    exact h.withResult _ (by rwa [length_packedString]) (outGood_packRegs hfit)

/-- The trailing bits of UNPACK are bounded by the depth of a VALID key's tree. -/
theorem Inv.unpackSource {s : State} (h : Inv s) (hvalid : s.key.state = .valid) : Inv (unpackSource s) := by
  rcases unpackSource_cases s with ⟨-, hs⟩ | ⟨e, hs⟩ | ⟨f, w, -, hwalk, hs⟩ <;> rw [hs]
  · exact h.withResult (bytes := []) s.rng (Nat.zero_le _) (outGood_absent _)
  · exact h.noResult.complete e
  · exact h.withResult s.rng (length_output_of_walkFrom hwalk (Nat.zero_le _))
      (outGood_unpackRegs f.pad (h.validTables hvalid) hwalk)

/-- A command with a key check keeps the invariant if its last part does with a VALID key. -/
theorem KeyedCommand.inv {command payload : State → State} (hc : KeyedCommand command payload)
    (hpayload : ∀ s, Inv s → s.key.state = .valid → Inv (payload s)) {s : State} (h : Inv s) : Inv (command s) := by
  rcases hc.cases s with ⟨-, hs⟩ | ⟨-, ⟨e, -, hs⟩ | ⟨hok, hs⟩⟩ <;> rw [hs]
  · exact h.noResult.complete _
  · exact h.ensureKey.noResult.complete e
  · exact hpayload _ h.ensureKey (keyState_of_ensureKey (Prod.ext rfl hok))

/-- The reset state keeps the parameters, and its memory list is the old one or empty (70_reset_and_hazards.md
R231). -/
theorem Inv.resetState {s : State} (h : Inv s) (keepMemories : Bool) : Inv (resetState keepMemories s) := by
  cases keepMemories with
  | true =>
    exact { keyGood_reset s.cfg, outGood_absent s.cfg, h with lifecycle := nofun, errFlag := rfl }
  | false =>
    have hmem : MemGood s.cfg [] := ⟨reset_mem_wf, nofun⟩
    exact { keyGood_reset s.cfg, outGood_absent s.cfg, hmem, h with lifecycle := nofun, errFlag := rfl }

/-- Every command keeps the invariant. -/
theorem Inv.exec {i : Instr} {s t : State} (h : Inv s) (hexec : exec i s = .next t) : Inv t := by
  cases i with
  | install =>
    rw [exec_install_next rfl hexec]
    exact h.installCommand
  | pack =>
    obtain rfl := Host.Outcome.next.inj hexec
    exact packCommand_keyed.inv (fun _ hs _ => hs.packPayload) h
  | unpack =>
    obtain rfl := Host.Outcome.next.inj hexec
    exact unpackCommand_keyed.inv (fun _ hs hvalid => hs.unpackSource hvalid) h
  | reset =>
    rw [exec_reset_next rfl hexec]
    have hreset : Inv { Machine.resetState true s with cmdLast := 0xF#4 } := { h.resetState true with }
    exact hreset.complete .ok
  | illegal op zero =>
    rw [exec_illegal_next rfl hexec]
    exact h.complete _

/-! ### Steps of the outside world -/

theorem Inv.hostRead {s : State} (h : Inv s) (a : BitVec 20) (n : Nat) : Inv (hostRead a n s) := by
  obtain ⟨r, d, hread, -⟩ := hostRead_frame a n s
  rw [hread]
  exact { h with }

theorem Inv.whenIdle {s : State} (h : Inv s) {effect : State → State} (heffect : Inv (effect s)) :
    Inv (whenIdle effect s) := by
  unfold Machine.whenIdle
  split
  · exact { h with }
  · exact heffect

/-- The acceptance of a command clears DONE (45_control.md R180, R183). -/
theorem Inv.onCmdWrite {s : State} (h : Inv s) (v : Word) : Inv (onCmdWrite v s) := by
  unfold Machine.onCmdWrite
  split
  · exact { h with }
  · exact { h with lifecycle := fun _ => rfl }

theorem Inv.writeReg {s : State} (h : Inv s) (r : Reg) (v : Word) : Inv (writeReg r v s) := by
  cases r with
  | cmd => exact h.onCmdWrite v
  | keyLen | srcLen | rngState =>
    rw [Machine.writeReg]
    refine h.whenIdle ?_
    exact { h with }
  | irqEn | irqStatus => exact { h with }
  | id | param0 | param1 | param2 | status | errCode | dstLen | pad | trail | dictInfo | lineInfo | codeInfo => exact h

theorem Inv.writeEffect {s : State} (h : Inv s) {a n : Nat} (v : Word) (hlegal : accessLegal s.cfg true a n = true) :
    Inv (writeEffect a n v s) := by
  unfold Machine.writeEffect
  cases hregion : regionAt s.cfg a with
  | regs =>
    cases regAt a with
    | none => exact h
    | some r => exact h.writeReg r v
  | keyMem | srcMem | dstMem =>
    have hmem : MemGood s.cfg (memWriteBytes s.mem a (bytesOf n v)) :=
      h.memGood.writeBytes fun x hle hlt =>
        inDataWindow_of_legal h.params (by simp) hregion hlegal hle (by rwa [length_bytesOf] at hlt)
    refine h.whenIdle ?_
    exact { hmem, h with }
  | ctMem | reserved => exact h

theorem Inv.hostWrite {s : State} (h : Inv s) (a : BitVec 20) (n : Nat) (v : Word) : Inv (hostWrite a n v s) := by
  unfold Machine.hostWrite
  split
  next hlegal => exact { h.writeEffect v hlegal with }
  next => exact { h with }

theorem Inv.countInternalStep {s : State} (h : Inv s) : Inv (countInternalStep s) := by
  unfold Machine.countInternalStep
  split
  next w k hrunning => exact { h with lifecycle := fun _ => h.lifecycle ((busy_iff s).mpr ⟨w, k + 1, hrunning⟩) }
  all_goals exact h

theorem Inv.withQueue {s : State} (h : Inv s) (q : List HostOp) : Inv { s with queue := q } := { h with }

theorem Inv.hostTurn {s : State} (h : Inv s) : Inv (hostTurn s) := by
  rcases hostTurn_cases s with ⟨-, hs⟩ | ⟨a, n, q, -, hs⟩ | ⟨a, n, v, q, -, hs⟩ | ⟨q, -, hs⟩ | ⟨q, -, hs⟩ |
    ⟨q, -, hs⟩ <;> rw [hs]
  · exact h
  · exact (h.withQueue q).hostRead a n
  · exact (h.withQueue q).hostWrite a n v
  · exact (h.withQueue q).resetState false
  · simp only [pollStatus]
    split
    · exact h.hostRead _ 4
    · exact (h.hostRead _ 4).withQueue q
  · exact (h.hostRead _ 4).withQueue _

/-- Settles O58: a due completion keeps the invariant by its instruction, any other step by the two parts of it. -/
theorem everyStepKeepsTheInvariant : Obligations.EveryStepKeepsTheInvariant := by
  intro s t h hstep
  rcases step_cases s with ⟨w, -, -, hs⟩ | ⟨-, hs⟩
  · exact h.exec (hs.symm.trans hstep)
  · obtain rfl := Host.Outcome.next.inj (hs.symm.trans hstep)
    exact h.countInternalStep.hostTurn

end Sys2Proof.Machine
end

section
/-! PROOFS. The interrupt output (60_exceptions.md R215): the statement O20. -/

namespace Sys2Proof.Machine

theorem irq_eq_true_iff (s : State) :
    irq s = true ↔ ∃ i, i < 3 ∧ s.irqStatus.getLsbD i = true ∧ s.irqEn.getLsbD i = true := by
  simp only [irq, Bool.or_eq_true, Bool.and_eq_true]
  constructor
  · rintro ((h | h) | h)
    · exact ⟨0, by decide, h⟩
    · exact ⟨1, by decide, h⟩
    · exact ⟨2, by decide, h⟩
  · rintro ⟨i, hi, h⟩
    match i, hi with
    | 0, _ => exact .inl (.inl h)
    | 1, _ => exact .inl (.inr h)
    | 2, _ => exact .inr h

/-- No enable, no interrupt. -/
theorem irq_of_irqEn_zero {s : State} (h : s.irqEn = 0#3) : irq s = false := by
  refine Bool.eq_false_iff.mpr fun hirq => ?_
  obtain ⟨i, -, -, henabled⟩ := (irq_eq_true_iff s).mp hirq
  simp [h] at henabled

/-- Settles O20: the OR bit by bit; a reset clears IRQ_EN. -/
theorem irqIsTheOrOfEnabledEvents : Obligations.IrqIsTheOrOfEnabledEvents :=
  ⟨irq_eq_true_iff, fun _ => irq_of_irqEn_zero, irq_of_irqEn_zero rfl⟩

end Sys2Proof.Machine
end

section
/-! PROOFS. No step writes the parameters (00_scope.md R7), and the statement O9. -/

namespace Sys2Proof.Machine

/-! ### Steps of the outside world -/

@[simp] theorem hostRead_cfg (a : BitVec 20) (n : Nat) (s : State) : (hostRead a n s).cfg = s.cfg := by
  obtain ⟨r, d, hread, -⟩ := hostRead_frame a n s
  rw [hread]

theorem whenIdle_cfg {effect : State → State} (h : ∀ s, (effect s).cfg = s.cfg) (s : State) :
    (whenIdle effect s).cfg = s.cfg := by
  unfold whenIdle
  split
  · exact dropWrite_cfg s
  · exact h s

@[simp] theorem onCmdWrite_cfg (v : Word) (s : State) : (onCmdWrite v s).cfg = s.cfg := by
  unfold onCmdWrite
  split <;> simp

@[simp] theorem writeReg_cfg (r : Reg) (v : Word) (s : State) : (writeReg r v s).cfg = s.cfg := by
  cases r with
  | cmd => exact onCmdWrite_cfg v s
  | keyLen | srcLen | rngState =>
    refine whenIdle_cfg ?_ s
    exact fun _ => rfl
  | id | param0 | param1 | param2 | status | errCode | dstLen | pad | trail | dictInfo | lineInfo | codeInfo
  | irqEn | irqStatus => rfl

@[simp] theorem writeWindow_cfg (a n : Nat) (v : Word) (s : State) : (writeWindow a n v s).cfg = s.cfg := by
  refine whenIdle_cfg ?_ s
  exact fun _ => rfl

@[simp] theorem writeEffect_cfg (a n : Nat) (v : Word) (s : State) : (writeEffect a n v s).cfg = s.cfg := by
  unfold writeEffect
  split
  · split <;> simp
  all_goals simp

@[simp] theorem hostWrite_cfg (a : BitVec 20) (n : Nat) (v : Word) (s : State) :
    (hostWrite a n v s).cfg = s.cfg := by
  unfold hostWrite
  split
  · exact writeEffect_cfg a.toNat n v s
  · rfl

@[simp] theorem pollStatus_cfg (s : State) (rest : List HostOp) : (pollStatus s rest).cfg = s.cfg := by
  simp only [pollStatus]
  split <;> simp

@[simp] theorem readResult_cfg (s : State) (rest : List HostOp) : (readResult s rest).cfg = s.cfg := by
  simp [readResult]

@[simp] theorem countInternalStep_cfg (s : State) : (countInternalStep s).cfg = s.cfg := by
  unfold countInternalStep
  split <;> rfl

@[simp] theorem hostTurn_cfg (s : State) : (hostTurn s).cfg = s.cfg := by
  rcases hostTurn_cases s with ⟨-, h⟩ | ⟨a, n, q, -, h⟩ | ⟨a, n, v, q, -, h⟩ | ⟨q, -, h⟩ | ⟨q, -, h⟩ |
    ⟨q, -, h⟩ <;> simp [h]

@[simp] theorem otherStep_cfg (s : State) : (otherStep s).cfg = s.cfg := by simp [otherStep]

/-! ### Completion steps -/

theorem installCommand_cfg (s : State) : (installCommand s).cfg = s.cfg := by
  rcases installCommand_cases s with ⟨-, hs⟩ | ⟨-, hs⟩ <;> rw [hs, complete_cfg]

theorem exec_cfg {i : Instr} {s t : State} (h : exec i s = .next t) : t.cfg = s.cfg := by
  have hkeyed (hi : i = .pack ∨ i = .unpack) : t.cfg = s.cfg := by
    obtain ⟨t', hexec, -, hhost, -⟩ := packAndUnpackFailuresAndFrames i s hi
    obtain rfl := Host.Outcome.next.inj (hexec.symm.trans h)
    exact hhost.cfg
  cases i with
  | install => rw [exec_install_next rfl h, installCommand_cfg]
  | pack => exact hkeyed (.inl rfl)
  | unpack => exact hkeyed (.inr rfl)
  | reset => rw [exec_reset_next rfl h, resetCommand_cfg]
  | illegal op zero =>
    rw [exec_illegal_next rfl h]
    exact complete_cfg _ s

/-! ### Every step -/

theorem step_next (s : State) : StepSafe s := by
  rcases step_cases s with ⟨w, -, -, hs⟩ | ⟨-, hs⟩
  · obtain ⟨t, hexec⟩ := exec_next (decodeWord w) s
    exact ⟨t, hs.trans hexec⟩
  · exact ⟨_, hs⟩

theorem step_cfg {s t : State} (h : step s = .next t) : t.cfg = s.cfg := by
  rcases step_cases s with ⟨w, -, -, hs⟩ | ⟨-, hs⟩
  · exact exec_cfg (hs.symm.trans h)
  · obtain rfl := Host.Outcome.next.inj (hs.symm.trans h)
    exact otherStep_cfg s

/-- The registers PARAM0 to PARAM2 read the parameters alone (10_state.md R25 to R27). -/
theorem paramRegs_of_cfg {s t : State} (h : t.cfg = s.cfg) :
    regValue t .param0 = regValue s .param0 ∧ regValue t .param1 = regValue s .param1 ∧
      regValue t .param2 = regValue s .param2 := by
  simp only [regValue, param0Word, param1Word, param2Word, h, and_self]

/-- Settles O9: every step goes on and keeps the parameters, and PARAM0 to PARAM2 depend on nothing else. -/
theorem everyStepGoesOnAndKeepsTheParameters : Obligations.EveryStepGoesOnAndKeepsTheParameters :=
  fun s => ⟨step_next s, fun _ hstep => ⟨step_cfg hstep, rfl, paramRegs_of_cfg (step_cfg hstep)⟩⟩

end Sys2Proof.Machine
end

section
/-! PROOFS. The codes no command reports: what an install, the tokenizer and the walk raise under the two invariants,
and the statement O55 (60_exceptions.md R203). -/

namespace Sys2Proof.Machine

/-- The four codes that are defined and never reported (60_exceptions.md R203). -/
abbrev unreachableCodes : List ErrCode := [.treeBuildFailure, .allocationFailure, .traversalFailure, .encodingFailure]

/-! ### The install and the key check -/

/-- CodeTooLong is the only error of an install (40_install.md R113, 42_code_table.md R134). -/
theorem installKey_error_eq {p : Params} {t : List Byte} {implicit : Bool} {k : KeyTables} {e : ErrCode}
    (h : (installKey p t implicit k).2 = .error e) : e = .codeTooLong := by
  rcases (installFailsOnlyByCodeTooLong p t implicit k).1 with ⟨-, hok⟩ | ⟨-, herr⟩
  · cases hok.symm.trans h
  · exact Except.error.inj (h.symm.trans herr)

theorem installCode_not_unreachable (invalidLines fullLines : Nat) :
    installCode invalidLines fullLines ∉ unreachableCodes := by
  unfold installCode
  split
  · decide
  · split <;> decide

theorem installCommand_not_unreachable (s : State) : (installCommand s).errCode ∉ unreachableCodes := by
  rcases installCommand_cases s with ⟨-, hs⟩ | ⟨-, hs⟩ <;> rw [hs, complete_errCode]
  · decide
  · rcases (installFailsOnlyByCodeTooLong s.cfg (keyText s) false s.key).1 with ⟨-, hok⟩ | ⟨-, herr⟩
    · rw [hok]
      exact installCode_not_unreachable _ _
    · rw [herr]
      decide

/-- The key check raises NotReady and CodeTooLong only (45_control.md R185). -/
theorem ensureKey_error {s : State} {e : ErrCode} (h : (ensureKey s).2 = some e) :
    e = .notReady ∨ e = .codeTooLong := by
  cases hstate : s.key.state with
  | valid => simp [ensureKey_of_valid hstate] at h
  | failed =>
    rw [ensureKey_of_failed hstate] at h
    exact .inl (Option.some.inj h).symm
  | none =>
    rw [ensureKey_eq_install hstate] at h
    exact .inr (installKey_error_eq ((fatalError_eq_some_iff _ e).mp h))

/-- Every change of the key tables to a VALID key gives complete codes. -/
theorem KeyNext.codesComplete {p : Params} {k k' : KeyTables} (h : KeyNext p k k')
    (hk : k.state = .valid → CodesComplete k) (hvalid : k'.state = .valid) : CodesComplete k' := by
  rcases h with rfl | rfl | ⟨text, implicit, rfl⟩
  · exact hk hvalid
  · cases hvalid
  · exact installedCodesAreComplete p text implicit k hvalid

/-! ### The last part of PACK -/

/-- With an entry for every byte there is a match at every cursor, so CapacityError is the tokenizer's only error
(43_pack.md R145, R153). -/
theorem tokenizeFrom_error_eq {ct : List CodeEntry} (hbytes : ∀ b : Byte, ∃ f ∈ ct, f.expr = [b]) (dstMax : Nat)
    {e : ErrCode} : ∀ (input : List Byte) (skip : Nat) (bits : Bits),
      tokenizeFrom ct dstMax skip bits input = .error e → e = .capacityError
  | [], _, _, h => by simp [tokenizeFrom] at h
  | _ :: rest, skip + 1, bits, h => tokenizeFrom_error_eq hbytes dstMax rest skip bits h
  | b :: rest, 0, bits, h => by
    obtain ⟨f, hf, hexpr⟩ := hbytes b
    obtain ⟨l, g, hmatch, -⟩ : ∃ l g, longestMatch ct (b :: rest) = some (l, g) ∧ f.expr.length ≤ l :=
      longestMatch_longest hf (by simp [hexpr]) (by simp [hexpr]) (by simp [hexpr])
    simp only [tokenizeFrom, hmatch] at h
    split at h
    · exact (Except.error.inj h).symm
    · exact tokenizeFrom_error_eq hbytes dstMax rest _ _ h

theorem packPayload_not_unreachable {s : State} (hcodes : CodesComplete s.key) :
    (packPayload s).errCode ∉ unreachableCodes := by
  rcases packPayload_cases s with ⟨e, hs, hcode⟩ | ⟨bits, -, hfit, hs⟩
  · have he : e = .capacityError := by
      refine hcode.elim (tokenizeFrom_error_eq (fun b => ?_) _ _ _ _) id
      obtain ⟨f, hf, hexpr, -⟩ := hcodes.everyByte b
      exact ⟨f, hf, hexpr⟩
    rw [hs, complete_errCode, he]
    decide
  · rw [hs, packBits_of_fits hfit, withResult_errCode]
    decide

/-! ### The last part of UNPACK -/

/-- In tables that agree the visit of a node succeeds where no internal node is too deep (42_code_table.md R133). -/
theorem TablesAgree.visit_ok {k : KeyTables} (hk : TablesAgree k) : ∀ {room n : Nat} (path : Bits),
    nodeAt k.pool n ≠ .empty → ¬ InternalBelow k.pool n room → ∃ ct, visit k.pool k.dict n path room = .ok ct := by
  intro room
  induction room with
  | zero =>
    intro n path hn hdeep
    rw [internalBelow_zero_iff] at hdeep
    cases hnode : nodeAt k.pool n with
    | empty => exact absurd hnode hn
    | leaf w dix => exact ⟨_, visit_of_leaf 0 hnode⟩
    | internal w l r => exact absurd ⟨w, l, r, hnode⟩ hdeep
  | succ room ih =>
    intro n path hn hdeep
    cases hnode : nodeAt k.pool n with
    | empty => exact absurd hnode hn
    | leaf w dix => exact ⟨_, visit_of_leaf (room + 1) hnode⟩
    | internal w l r =>
      obtain ⟨-, -, hl, hr⟩ := hk.children n w l r hnode
      rw [internalBelow_succ_iff hnode, not_or] at hdeep
      obtain ⟨ls, hls⟩ := ih (path ++ [false]) hl hdeep.1
      obtain ⟨rs, hrs⟩ := ih (path ++ [true]) hr hdeep.2
      exact ⟨ls ++ rs, by simp only [visit, hnode, hls, hrs]⟩

/-- A walk never leaves tables that agree (44_unpack.md R167). -/
theorem TablesAgree.walkable {k : KeyTables} (hk : TablesAgree k) : Walkable k where
  rootInternal := hk.rootInternal
  visited := by
    obtain ⟨w, l, r, hroot⟩ := hk.rootInternal
    have hdeep : ¬ InternalBelow k.pool k.root maxCodeLen := by
      rintro ⟨path, i, w', l', r', hlen, hreach, hi⟩
      exact absurd hlen (Nat.ne_of_lt (hk.depth path i w' l' r' hreach hi))
    exact ⟨k.dict, [], maxCodeLen, hk.visit_ok [] (by simp [hroot]) hdeep⟩

theorem unpackSource_not_unreachable {s : State} (hk : Walkable s.key) :
    (unpackSource s).errCode ∉ unreachableCodes := by
  by_cases hsource : sourceBytes s = emptyPacket
  · rw [unpackSource_of_emptyPacket hsource, withResult_errCode]
    decide
  · cases hframe : checkFrame (sourceBytes s) with
    | error e =>
      rw [unpackSource_of_error hsource hframe, complete_errCode]
      rcases checkFrame_error hframe with rfl | rfl <;> decide
    | ok f =>
      rw [unpackSource_of_ok hsource hframe]
      cases hwalk : walk s.key s.cfg.dstMax (frameBits f) with
      | error e =>
        rw [unpackFrame_of_error hwalk, complete_errCode, walk_error hk hwalk]
        decide
      | ok w =>
        rw [unpackFrame_of_ok hwalk, withResult_errCode]
        decide

/-! ### The commands -/

/-- A command with a key check reports none of the four codes if its last part reports none with a VALID key. -/
theorem KeyedCommand.not_unreachable {command payload : State → State} (hc : KeyedCommand command payload)
    (hpayload : ∀ s, TablesAgree s.key → CodesComplete s.key → (payload s).errCode ∉ unreachableCodes) {s : State}
    (hagree : s.key.state = .valid → TablesAgree s.key) (hcodes : s.key.state = .valid → CodesComplete s.key) :
    (command s).errCode ∉ unreachableCodes := by
  rcases hc.cases s with ⟨-, hs⟩ | ⟨-, ⟨e, he, hs⟩ | ⟨hok, hs⟩⟩ <;> rw [hs]
  · rw [complete_errCode]
    decide
  · rw [complete_errCode]
    rcases ensureKey_error he with rfl | rfl <;> decide
  · have hnext := ensureKey_keyNext s
    have hvalid : (ensureKey s).1.key.state = .valid := keyState_of_ensureKey (Prod.ext rfl hok)
    exact hpayload _ (hnext.tablesAgree hagree hvalid) (hnext.codesComplete hcodes hvalid)

/-- Settles O55: an install fails by CodeTooLong only, complete codes give the tokenizer a match at every cursor, and a
walk never leaves tables that agree. -/
theorem unreachableErrorsAreNeverReported : Obligations.UnreachableErrorsAreNeverReported := by
  intro i s hinv hcodes
  cases i with
  | install => exact ⟨_, rfl, installCommand_not_unreachable s⟩
  | pack =>
    exact ⟨_, rfl, packCommand_keyed.not_unreachable (fun _ _ => packPayload_not_unreachable) hinv.validTables hcodes⟩
  | unpack =>
    exact ⟨_, rfl, unpackCommand_keyed.not_unreachable (fun _ hagree _ => unpackSource_not_unreachable hagree.walkable)
      hinv.validTables hcodes⟩
  | reset => exact ⟨_, rfl, show ErrCode.ok ∉ unreachableCodes by decide⟩
  | illegal op zero => exact ⟨_, rfl, show ErrCode.illegalCommand ∉ unreachableCodes by decide⟩

end Sys2Proof.Machine
end

section
/-! PROOFS. The hardware reset and the state it leaves: the statements O8, O18 and O57 (70_reset_and_hazards.md R230,
R231). -/

namespace Sys2Proof.Machine

/-! ### The step of a hardware reset -/

/-- An internal step counts, and changes nothing else (45_control.md R191). -/
theorem countInternalStep_frame (s : State) : ∃ g, countInternalStep s = { s with engine := g } := by
  unfold countInternalStep
  split <;> exact ⟨_, rfl⟩

/-- Whatever the engine does, the reset state has none of it. -/
theorem otherStep_of_hardReset {s : State} {q : List HostOp} (hq : s.queue = .hardReset :: q) :
    otherStep s = resetState false { s with queue := q } := by
  obtain ⟨g, hcount⟩ := countInternalStep_frame s
  rw [otherStep, hcount, hostTurn, hq]
  rfl

/-- A hardware reset that is next is the step, before a due completion too (60_exceptions.md R206). -/
theorem step_of_hardReset {s : State} {q : List HostOp} (hq : s.queue = .hardReset :: q) :
    step s = .next (resetState false { s with queue := q }) := by
  rcases step_cases s with ⟨-, -, hhead, -⟩ | ⟨-, hstep⟩
  · exact absurd (congrArg List.head? hq) hhead
  · rw [hstep, otherStep_of_hardReset hq]

/-- Settles O8: the step is the hard reset, which enables no event and makes every byte a draw. -/
theorem hardwareResetAbandonsTheCommand : Obligations.HardwareResetAbandonsTheCommand := by
  intro s q hq
  exact ⟨_, step_of_hardReset hq, rfl, rfl, rfl, rfl, irq_of_irqEn_zero rfl,
    byteAt_resetHard { s with queue := q }⟩

/-! ### The reset state -/

/-- Settles O18: the word of each register, computed in the reference configuration, and the empty tables. -/
theorem resetLeavesTheResetValues : Obligations.ResetLeavesTheResetValues := by
  refine ⟨fun r => ?_, rfl, rfl, rfl, rfl, rfl, fun _ => rfl, nofun, fun _ => rfl, irq_of_irqEn_zero rfl⟩
  cases r <;> rfl

theorem inv_reset : Inv State.reset :=
  have hmem : MemGood referenceParams [] := ⟨reset_mem_wf, nofun⟩
  { keyGood_reset referenceParams, outGood_absent referenceParams, hmem with
    params := by decide
    lifecycle := nofun
    errFlag := rfl }

/-- Settles O57: the tables, the result registers and the memory list are empty, and no key is VALID. -/
theorem invariantHoldsAtReset : Obligations.InvariantHoldsAtReset := ⟨inv_reset, nofun⟩

end Sys2Proof.Machine
end

section
/-! PROOFS. A WAIT of the host on a running command: the statement O7 (70_reset_and_hazards.md R251). -/

namespace Sys2Proof.Machine

/-! ### Steps and the queue -/

/-- No command takes an operation of the outside world (45_control.md R188). -/
theorem exec_queue {i : Instr} {s t : State} (h : exec i s = .next t) : t.queue = s.queue := by
  have hkeyed (hi : i = .pack ∨ i = .unpack) : t.queue = s.queue := by
    obtain ⟨t', hexec, -, hhost, -⟩ := packAndUnpackFailuresAndFrames i s hi
    obtain rfl := Host.Outcome.next.inj (hexec.symm.trans h)
    exact hhost.queue
  cases i with
  | install =>
    rw [exec_install_next rfl h]
    rcases installCommand_cases s with ⟨-, hs⟩ | ⟨-, hs⟩ <;> rw [hs, complete_queue]
  | pack => exact hkeyed (.inl rfl)
  | unpack => exact hkeyed (.inr rfl)
  | reset => rw [exec_reset_next rfl h, resetCommand_queue]
  | illegal op zero =>
    rw [exec_illegal_next rfl h]
    exact complete_queue _ s

/-- A run's first step. -/
theorem run_succ {s t : State} (h : step s = .next t) (n : Nat) : core.run (n + 1) s = core.run n t := by
  have hstep : core.step s = .next t := h
  simp only [Host.Core.run, hstep]

/-! ### The steps of a WAIT -/

section
variable {s : State} {q : List HostOp}

theorem hostTurn_of_wait (hq : s.queue = .wait :: q) : hostTurn s = pollStatus s q := by
  rw [hostTurn, hq]

/-- A WAIT of a busy core is a read that stays in front (30_encoding.md R92). -/
theorem hostTurn_of_busy_waiting (h : s.busy = true) (hq : s.queue = .wait :: q) :
    ∃ r d, hostTurn s = { s with port := r, draws := d } := by
  obtain ⟨r, d, hread, -⟩ := hostRead_frame (regOffset .status) 4 s
  refine ⟨r, d, ?_⟩
  rw [hostTurn_of_wait hq, pollStatus_eq hq, if_pos h, hread, ← hq]

/-- While internal steps are left, each of them leaves the WAIT in front. -/
theorem step_of_running_waiting {w : Word} {k : Nat} (h : s.engine = .running w (k + 1))
    (hq : s.queue = .wait :: q) :
    ∃ t, step s = .next t ∧ t.engine = .running w k ∧ t.queue = .wait :: q := by
  obtain ⟨r, d, hturn⟩ := hostTurn_of_busy_waiting (s := { s with engine := .running w k }) rfl hq
  exact ⟨_, (step_of_running h).trans (congrArg _ hturn), rfl, hq⟩

/-- The completion leaves the WAIT in front. -/
theorem step_of_due_waiting {w : Word} (h : s.engine = .running w 0) (hq : s.queue = .wait :: q) :
    ∃ t, step s = .next t ∧ t.busy = false ∧ t.done = true ∧ t.queue = .wait :: q := by
  obtain ⟨t, before, hexec, hcompleted, -⟩ := exec_completedWith (decodeWord w) s
  exact ⟨t, (step_of_due h (by simp [hq])).trans hexec, hcompleted.busy, hcompleted.done,
    (exec_queue hexec).trans hq⟩

/-- A WAIT of an idle core ends. -/
theorem step_of_idle_waiting (h : s.busy = false) (hq : s.queue = .wait :: q) :
    ∃ t, step s = .next t ∧ t.busy = s.busy ∧ t.done = s.done ∧ t.queue = q := by
  have hturn := (hostTurn_of_wait hq).trans (pollStatus_of_idle q h)
  exact ⟨_, (step_of_idle h).trans (congrArg _ hturn), rfl, rfl, rfl⟩

end

/-- Settles O7, by induction on the internal steps left: the WAIT polls in each of them, waits for the completion
step, and ends in the step after it. -/
theorem waitEndsAfterCompletion : Obligations.WaitEndsAfterCompletion := by
  intro s w k q h hq
  induction k generalizing s with
  | zero =>
    obtain ⟨t, hcompletion, hidle, hdone, hwait⟩ := step_of_due_waiting h hq
    obtain ⟨u, hend, hbusy, hkept, hrest⟩ := step_of_idle_waiting hidle hwait
    exact ⟨u, (run_succ hcompletion 1).trans (run_succ hend 0), hrest, hbusy.trans hidle, hkept.trans hdone⟩
  | succ k ih =>
    obtain ⟨t, hpoll, hrunning, hwait⟩ := step_of_running_waiting h hq
    obtain ⟨u, hrun, hu⟩ := ih t hrunning hwait
    exact ⟨u, (run_succ hpoll (k + 2)).trans hrun, hu⟩

end Sys2Proof.Machine
end
